-- ==== Sys2Proof/Word.lean ====
section
/-! DEFINITION. The widths the spec gives (R9, R11): a byte, a 32-bit word, a window offset, a 2-bit grid cell
and a 64-bit transaction descriptor. Bit 0 is the least significant bit everywhere. -/

namespace Sys2Proof

/-- One byte: a header byte, a record byte, a byte of the window (R19, R20, R42). -/
abbrev Byte := BitVec 8

/-- One 32-bit word: IMGLEN, OFFSET, LENGTH, TILES, the STATUS word, a CMD word (R9, R52). -/
abbrev Word := BitVec 32

/-- An offset of the 256-byte register window (R32, R55). -/
abbrev Offset := BitVec 8

/-- One cell of the pixel grid, a value 0 to 3 (R22). -/
abbrev Pixel := BitVec 2

/-- The 8 by 8 grid, indexed row first: `g[y][x]` is GRID[y][x] (R13, R22). -/
abbrev Grid := Vector (Vector Pixel 8) 8

/-- A 16-byte tile record or a 16-byte header (R19, R20). -/
abbrev Bytes16 := Vector Byte 16

/-- The 64-bit descriptor of one host transaction (R53). -/
abbrev Txn := BitVec 64

end Sys2Proof
end

