-- ==== Sys2Proof/Config.lean ====
section
/-! DEFINITION. What the spec fixes for every block: the parameters of R8 and R9, the window symbols of R59 and the
palette of R5. The block has no free value and no value an implementation chooses: the two open parameters of R10
(TDEC_BASE, N_INSTANCES) are arguments of the platform model (Machine/Platform.lean), not constants here. -/

namespace Sys2Proof.Config

/-! ## Parameters of R8 and R9 -/

/-- TILE_BYTES (R8). -/
@[simp] abbrev tileBytes : Nat := 16
/-- PLANE_BYTES (R8): plane A is record bytes 0 to 7, plane B bytes 8 to 15. -/
@[simp] abbrev planeBytes : Nat := 8
/-- HEADER_BYTES (R8). -/
@[simp] abbrev headerBytes : Nat := 16
/-- HDR_PRG (R8): the header byte that holds prgUnits. -/
@[simp] abbrev hdrPrg : Fin 16 := 4
/-- HDR_CHR (R8): the header byte that holds chrUnits. -/
@[simp] abbrev hdrChr : Fin 16 := 5
/-- HDR_FLAGS6 (R8): the header byte that holds flags6. -/
@[simp] abbrev hdrFlags6 : Fin 16 := 6
/-- TRAINER_BIT (R8). -/
@[simp] abbrev trainerBit : Nat := 2
/-- PRG_UNIT (R8). -/
@[simp] abbrev prgUnit : Nat := 16384
/-- CHR_UNIT (R8). -/
@[simp] abbrev chrUnit : Nat := 8192
/-- TRAINER_BYTES (R8). -/
@[simp] abbrev trainerBytes : Nat := 512
/-- TILES_PER_CHR_UNIT (R8). -/
@[simp] abbrev tilesPerChrUnit : Nat := 512
/-- The size of the register window (R9). -/
@[simp] abbrev windowBytes : Nat := 256

/-! ## Symbols of the window (R32, R59) -/

@[simp] abbrev symRec : Offset := 0x00
@[simp] abbrev symHdr : Offset := 0x10
@[simp] abbrev symImgLen : Offset := 0x20
@[simp] abbrev symCmd : Offset := 0x24
@[simp] abbrev symStatus : Offset := 0x28
@[simp] abbrev symOffset : Offset := 0x2C
@[simp] abbrev symLength : Offset := 0x30
@[simp] abbrev symTiles : Offset := 0x34
@[simp] abbrev symGridP : Offset := 0x40
@[simp] abbrev symGridU : Offset := 0x80

/-! ## The palette (R5), which belongs to the image-emission collaborator -/

/-- The colour of a GRID value, as the triple of R5 (PALETTE_ENTRIES is 4, R8). -/
def palette : Vector (Nat × Nat × Nat) 4 :=
  #v[(211, 211, 211), (169, 169, 169), (105, 105, 105), (0, 0, 0)]

end Sys2Proof.Config
end

