-- ==== Sys2Proof/Syntax.lean ====
section
/-! DEFINITION. The instructions of the block: one constructor per row of spec/opcode_table.json. Four are host bus
transactions (the TXN format), two are commands (the CMD format) (R2, R52). -/

namespace Sys2Proof

/-- One instruction, with the operands R55 takes from its encoding. The data bits a transaction ignores (all of DATA for
a read, DATA[31:8] for WR8) are no operand. -/
inductive Instr where
  /-- RD8: read one byte at a window offset (R85). -/
  | rd8 (off : Offset)
  /-- RD32: read one little-endian word (R86). -/
  | rd32 (off : Offset)
  /-- WR8: write one byte (R88). -/
  | wr8 (off : Offset) (data : Byte)
  /-- WR32: write one little-endian word, or issue a command when the offset is CMD (R89). -/
  | wr32 (off : Offset) (data : Word)
  /-- DECODE: the command word 0x00000001 (R82). -/
  | decode
  /-- LOCATE: the command word 0x00000002 (R72). -/
  | locate
deriving DecidableEq, Repr

end Sys2Proof
end

