-- ==== Sys2Proof/WellFormed.lean ====
section
/-! DEFINITION. When an instruction's operands are those its rule names. R86 and R89 (and the opcode table's rows) give
RD32 and WR32 the operand "OFF, a multiple of 4"; R85 and R88 put no condition on OFF; the commands have no operand (R57).
An instruction that is not well formed still has an encoding and a defined outcome: the block answers it with
BusError(MISALIGNED) (R84). -/

namespace Sys2Proof

/-- The operand of a 4-byte access is a multiple of 4 (R42, R86, R89). -/
def Instr.wellFormed : Instr → Bool
  | .rd8 _ => true
  | .rd32 off => off.toNat % 4 == 0
  | .wr8 _ _ => true
  | .wr32 off _ => off.toNat % 4 == 0
  | .decode => true
  | .locate => true

end Sys2Proof
end

