-- ==== Sys2Proof/Decode.lean ====
section
/-! DEFINITION. The two encoded formats (R52): a 64-bit TXN descriptor and a 32-bit CMD word. The decoders are total and
reject by name; the encoder is written from the same field tables (R53, R56). -/

namespace Sys2Proof

/-- Why an encoding is no instruction. -/
inductive DecodeError where
  /-- TXN bits 63:43 are not zero (R53, R54). -/
  | reservedField
  /-- TXN SZ is 0b01 or 0b11 (R53, R54). -/
  | reservedSize
  /-- A CMD word other than 0x00000001 and 0x00000002 (R56). -/
  | illegalCommand
deriving DecidableEq, Repr

/-- An encoded item of either format; its format alone tells its length (R52). -/
inductive Item where
  | txn (t : Txn)
  | cmd (w : Word)
deriving DecidableEq, Repr

/-! ## Fields of a TXN (R53) -/

/-- RSV, bits 63:43. -/
def txnRsv (t : Txn) : BitVec 21 := t.extractLsb' 43 21
/-- DIR, bit 42: true for a write. -/
def txnDir (t : Txn) : Bool := t.getLsbD 42
/-- SZ, bits 41:40. -/
def txnSize (t : Txn) : BitVec 2 := t.extractLsb' 40 2
/-- OFF, bits 39:32. -/
def txnOff (t : Txn) : Offset := t.extractLsb' 32 8
/-- DATA, bits 31:0. -/
def txnData (t : Txn) : Word := t.extractLsb' 0 32

/-- decodeTXN of R54, with the operands of R55. -/
def decodeTxn (t : Txn) : Except DecodeError Instr :=
  if txnRsv t ≠ 0 then .error .reservedField
  else if txnSize t = 0b00 then
    if txnDir t then .ok (.wr8 (txnOff t) ((txnData t).extractLsb' 0 8)) else .ok (.rd8 (txnOff t))
  else if txnSize t = 0b10 then
    if txnDir t then .ok (.wr32 (txnOff t) (txnData t)) else .ok (.rd32 (txnOff t))
  else .error .reservedSize

/-- The CMD word of DECODE (R56). -/
def cmdDecodeWord : Word := 0x00000001
/-- The CMD word of LOCATE (R56). -/
def cmdLocateWord : Word := 0x00000002

/-- The command a CMD word selects, by the whole word (R56). -/
def decodeCmd (w : Word) : Except DecodeError Instr :=
  if w = cmdDecodeWord then .ok .decode
  else if w = cmdLocateWord then .ok .locate
  else .error .illegalCommand

/-- The decoder of both formats. -/
def decodeItem : Item → Except DecodeError Instr
  | .txn t => decodeTxn t
  | .cmd w => decodeCmd w

/-! ## The encoder -/

/-- A TXN from its fields, most significant first (R53). -/
def packTxn (dir : Bool) (size : BitVec 2) (off : Offset) (data : Word) : Txn :=
  (0 : BitVec 21) ++ BitVec.ofBool dir ++ size ++ off ++ data

/-- The encoding of an instruction. Ignored data bits are written as zero, as R59 writes DATA = 0 for reads. -/
def encode : Instr → Item
  | .rd8 off => .txn (packTxn false 0b00 off 0)
  | .rd32 off => .txn (packTxn false 0b10 off 0)
  | .wr8 off data => .txn (packTxn true 0b00 off (data.setWidth 32))
  | .wr32 off data => .txn (packTxn true 0b10 off data)
  | .decode => .cmd cmdDecodeWord
  | .locate => .cmd cmdLocateWord

/-- The transaction that carries an encoded item to the block: a TXN is one already, and a CMD word is the data of a
WR32 to CMD (R52, R56, R61). -/
def carrier : Item → Txn
  | .txn t => t
  | .cmd w => packTxn true 0b10 Config.symCmd w

/-! ## Table words -/

/-- The item whose bits are `w`, numbered as spec/opcode_table.json numbers them: a row of at most 32 bits is a CMD word,
a longer one a TXN (R52). A number too large for its format is no item. -/
def itemOfTableWord (nbits w : Nat) : Option Item :=
  if nbits ≤ 32 then (if w < 2 ^ 32 then some (.cmd (BitVec.ofNat 32 w)) else none)
  else if nbits ≤ 64 then (if w < 2 ^ 64 then some (.txn (BitVec.ofNat 64 w)) else none)
  else none

/-- The instruction the decoder reads from a table word. -/
def decodeTableWord (nbits w : Nat) : Option Instr :=
  match itemOfTableWord nbits w with
  | none => none
  | some item =>
    match decodeItem item with
    | .ok i => some i
    | .error _ => none

end Sys2Proof
end

