-- ==== Sys2Proof/Machine/State.lean ====
section
/-! DEFINITION. The state of one block instance (R15), as plain data, with the port through which the host reaches it;
the reasons a step can stop; and the state after reset (R30). -/

namespace Sys2Proof.Machine

/-- The reason of a bus error (R95). It is a diagnostic label: the host sees only that the transaction failed. -/
inductive BusError where
  /-- TXN bits 63:43 nonzero, or TXN SZ = 0b01 or 0b11. -/
  | reserved
  /-- A 4-byte access with OFF not a multiple of 4. -/
  | misaligned
  /-- An access touching 0x38-0x3F, 0x50-0x7F or 0xC0-0xFF. -/
  | unmapped
  /-- A 1-byte access to 0x24-0x27 (CMD). -/
  | width
  /-- A write to 0x28-0x37, 0x40-0x4F or 0x80-0xBF. -/
  | readOnly
deriving DecidableEq, Repr

/-- What the block answers one transaction with (R55, R93). -/
inductive Reply where
  /-- The 8-bit response of a RD8 (R85). -/
  | byte (v : Byte)
  /-- The 32-bit response of a RD32 (R86). -/
  | word (v : Word)
  /-- A write completed normally (R88, R89). -/
  | done
  /-- The error response of a refused transaction (R95). -/
  | busError (reason : BusError)
deriving DecidableEq, Repr

/-- What the host can tell of an answer: of a refused transaction, only that it failed (R95). -/
inductive HostAnswer where
  | byte (v : Byte)
  | word (v : Word)
  | done
  | failed
deriving DecidableEq, Repr

/-- What the outside world can do to one instance: issue a transaction (R7, R46) or assert reset (R108). -/
inductive HostEvent where
  | txn (t : Txn)
  | reset
deriving DecidableEq, Repr

/-- The architectural state of one block instance: exactly the registers of R15. CMD has no storage (R27). -/
structure Block where
  /-- REC, the tile record (R19). -/
  record : Bytes16
  /-- HDR, the cartridge header (R20). -/
  hdr : Bytes16
  /-- IMGLEN, the image length in bytes (R21). -/
  imgLen : Word
  /-- GRID, the last decoded grid (R22). -/
  grid : Grid
  /-- OFFSET (R24). -/
  offset : Word
  /-- LENGTH (R25). -/
  length : Word
  /-- TILES (R26). -/
  tiles : Word
  /-- STATUS.GV (R28). -/
  gv : Bool
  /-- STATUS.RV (R28). -/
  rv : Bool
  /-- STATUS.ERR (R28). -/
  err : BitVec 4
deriving DecidableEq, Repr

/-- The block and its port. `inbox` and `replies` are no registers of the block: they are what the host has issued and
not yet had served, in issue order (R46), and what the block has answered, newest first. -/
structure State where
  block : Block
  inbox : List HostEvent
  replies : List Reply
deriving DecidableEq, Repr

/-- Why the machine stops with no next state. A bus error and a command error are NOT here: they never stop the block
(R93). -/
inductive Fault where
  /-- Raised by `step` when the host has issued nothing: the block takes a step only in response to a host transaction
  (R7), and only reset changes state without one (R108). Safe: the machine is stuck, no state is invented. -/
  | noTransaction
  /-- Raised by `step` when STATUS.ERR holds 4 to 15, which the block never produces (R28; 93_implementation_defined.md
  U6: "a model that reaches it should fault"). Safe: no state reached from reset holds such a value. -/
  | reservedErr
deriving DecidableEq, Repr

/-- Why an instruction has no meaning. No meaning of this model answers with a refusal. -/
inductive Refusal where
  /-- Raised by an arm of `exec` whose instruction has no meaning yet; no arm is left so. Safe. -/
  | notModelled (mnemonic : String)
deriving DecidableEq, Repr

/-- Every register at its reset value (R30): all zero. -/
def Block.reset : Block where
  record := Vector.replicate 16 0
  hdr := Vector.replicate 16 0
  imgLen := 0
  grid := Vector.replicate 8 (Vector.replicate 8 0)
  offset := 0
  length := 0
  tiles := 0
  gv := false
  rv := false
  err := 0

/-- The machine right after reset, before the host has issued anything (R30, R108). -/
def State.reset : State where
  block := Block.reset
  inbox := []
  replies := []

end Sys2Proof.Machine
end

