-- ==== Sys2Proof/Machine/Operands.lean ====
section
/-! DEFINITION. Operand forms: the two directions and widths of an access, the ranges of the register window (R32), byte
order (R40), and the bit layout of the two views of GRID (R23). -/

namespace Sys2Proof.Machine

/-- The direction of an access (R53 DIR). -/
inductive Dir where
  | read
  | write
deriving DecidableEq, Repr

/-- The width of an access (R42): 1 byte or 4 bytes. -/
inductive Width where
  | one
  | four
deriving DecidableEq, Repr

/-- How many bytes an access of this width moves. -/
def Width.bytes : Width → Nat
  | .one => 1
  | .four => 4

/-! ## Ranges of the window (R32) -/

/-- The unmapped ranges 0x38-0x3F, 0x50-0x7F and 0xC0-0xFF. -/
def inUnmapped (o : Nat) : Bool :=
  (0x38 ≤ o && o ≤ 0x3F) || (0x50 ≤ o && o ≤ 0x7F) || (0xC0 ≤ o && o ≤ 0xFF)

/-- The range 0x24-0x27 of CMD. -/
def inCmd (o : Nat) : Bool := 0x24 ≤ o && o ≤ 0x27

/-- The read-only ranges 0x28-0x37, 0x40-0x4F and 0x80-0xBF. -/
def inReadOnly (o : Nat) : Bool :=
  (0x28 ≤ o && o ≤ 0x37) || (0x40 ≤ o && o ≤ 0x4F) || (0x80 ≤ o && o ≤ 0xBF)

/-! ## Byte order (R40) -/

/-- Byte `k` of a word: bits 8k+7 to 8k. -/
def getByte (w : Word) (k : Nat) : Byte := w.extractLsb' (8 * k) 8

/-- The word with byte `k` replaced and the other bits kept (R41). -/
def setByte (w : Word) (k : Nat) (v : Byte) : Word :=
  (w &&& ~~~((0xFF : Word) <<< (8 * k))) ||| ((v.setWidth 32) <<< (8 * k))

/-- The little-endian word of four bytes, the byte at the lowest offset last: R41's braces. -/
def wordOfBytes (b3 b2 b1 b0 : Byte) : Word := b3 ++ b2 ++ b1 ++ b0

/-! ## The views of GRID (R23) -/

/-- Cell (y, x) of the grid, for indices given as numbers; R22 has cells for y and x below 8 only, and no caller asks
for another. -/
def gridCell (g : Grid) (y x : Nat) : Pixel := (g.getD y (Vector.replicate 8 0)).getD x 0

/-- The packed byte of row y, half h: four cells, the lowest column in bits 1:0. -/
def packedByte (g : Grid) (y h : Nat) : Byte :=
  gridCell g y (4 * h + 3) ++ gridCell g y (4 * h + 2) ++ gridCell g y (4 * h + 1) ++ gridCell g y (4 * h)

/-- The unpacked byte of cell (y, x): the cell, zero-extended. -/
def unpackedByte (g : Grid) (y x : Nat) : Byte := (gridCell g y x).setWidth 8

end Sys2Proof.Machine
end

