-- ==== Sys2Proof/Machine/Flags.lean ====
section
/-! DEFINITION. The STATUS register: its word (R28), the codes of ERR (R94), and what writes GV, RV and ERR. -/

namespace Sys2Proof.Machine

/-! ## The codes of STATUS.ERR (R94) -/

/-- NONE. -/
def errNone : BitVec 4 := 0
/-- MISSING_GRAPHICS_ROM. -/
def errMissingGraphicsRom : BitVec 4 := 1
/-- TRUNCATED_INPUT. -/
def errTruncatedInput : BitVec 4 := 2
/-- ILLEGAL_COMMAND. -/
def errIllegalCommand : BitVec 4 := 3

/-- ERR holds one of the values 4 to 15, which the block never produces (R28). -/
def errReserved (b : Block) : Bool := 3 < b.err.toNat

/-! ## The word -/

/-- STATUS as a word: 20 zero bits, ERR, 6 zero bits, RV, GV (R28). -/
def statusWord (b : Block) : Word :=
  (0 : BitVec 20) ++ b.err ++ (0 : BitVec 6) ++ BitVec.ofBool b.rv ++ BitVec.ofBool b.gv

/-! ## Writers of the flags -/

/-- A write to REC clears GV, even when it stores the value already held (R19, R44). -/
def clearGv (b : Block) : Block := { b with gv := false }

/-- A write to HDR or IMGLEN clears RV, even when it stores the value already held (R20, R21, R44). -/
def clearRv (b : Block) : Block := { b with rv := false }

/-- Every command writes ERR; it is not sticky (R28, R101). -/
def setErr (code : BitVec 4) (b : Block) : Block := { b with err := code }

end Sys2Proof.Machine
end

