-- ==== Sys2Proof/Machine/Ops.lean ====
section
/-! DEFINITION. The operations every meaning is built from: taking the next event from the port, answering the host, the
access checks and the bus error (R84), the byte view of the state (R87), the byte write (R90), and reset (R108). -/

namespace Sys2Proof.Machine

/-! ## The port -/

/-- The next event the host has issued, and the machine with that event taken from the port (R46). -/
def fetchEvent (s : State) : Option (HostEvent × State) :=
  match s.inbox with
  | [] => none
  | e :: rest => some (e, { s with inbox := rest })

/-- The machine with one event standing before all others at the port. -/
def putFirst (e : HostEvent) (s : State) : State := { s with inbox := e :: s.inbox }

/-- The machine after the host has issued one more event: it is served after every earlier one (R46). -/
def issue (e : HostEvent) (s : State) : State := { s with inbox := s.inbox ++ [e] }

/-- The machine with an answer given to the host. -/
def respond (r : Reply) (s : State) : State := { s with replies := r :: s.replies }

/-- What the host sees of an answer: the reason of a bus error is not visible to it (R95). -/
def seenByHost : Reply → HostAnswer
  | .byte v => .byte v
  | .word v => .word v
  | .done => .done
  | .busError _ => .failed

/-- The machine with its registers changed by `f`. -/
def mapBlock (f : Block → Block) (s : State) : State := { s with block := f s.block }

/-! ## Errors and reset -/

/-- The block refuses a transaction: the host gets an error response and no register changes (R84, R93, R95). This is
the one operation that raises a bus error; nothing returns from it, because nothing was entered (R100, R101). -/
def raiseBusError (reason : BusError) (s : State) : Host.Outcome State Fault Refusal :=
  .next (respond (.busError reason) s)

/-- The bus error of a transaction that does not decode: RESERVED (R54). -/
def busErrorOfDecode : DecodeError → BusError
  | .reservedField => .reserved
  | .reservedSize => .reserved
  | .illegalCommand => .reserved

/-- Reset: every register takes its reset value (R108); the port is the host's and is left alone. -/
def applyReset (s : State) : State := mapBlock (fun _ => Block.reset) s

/-! ## The access checks (R84) -/

/-- Some byte of the access lies in an unmapped range (R84 check 3). -/
def touchesUnmapped (width : Width) (o : Nat) : Bool :=
  (List.range width.bytes).any fun i => inUnmapped (o + i)

/-- Checks 2 to 5 of R84, in its order; the first that fails is the bus error. -/
def busCheck (dir : Dir) (width : Width) (off : Offset) : Option BusError :=
  if width = .four ∧ off.toNat % 4 ≠ 0 then some .misaligned
  else if touchesUnmapped width off.toNat then some .unmapped
  else if width = .one ∧ inCmd off.toNat then some .width
  else if dir = .write ∧ inReadOnly off.toNat then some .readOnly
  else none

/-- An access: refused with a bus error if a check fails, else performed (R84). -/
def access (dir : Dir) (width : Width) (off : Offset) (perform : State → State) (s : State) :
    Host.Outcome State Fault Refusal :=
  match busCheck dir width off with
  | some reason => raiseBusError reason s
  | none => .next (perform s)

/-! ## Reads -/

/-- B(o), the byte view of the registers (R87). CMD and the unmapped ranges have no byte view: `busCheck` refuses every
access that would read one, but for RD32 of CMD, which reads as 0 (R86), so the zero given there is never seen
otherwise. -/
def byteView (b : Block) (o : Nat) : Byte :=
  if h : o < 0x10 then b.record[o]
  else if h : o < 0x20 then b.hdr[o - 0x10]
  else if o < 0x24 then getByte b.imgLen (o - 0x20)
  else if o < 0x28 then 0
  else if o < 0x2C then getByte (statusWord b) (o - 0x28)
  else if o < 0x30 then getByte b.offset (o - 0x2C)
  else if o < 0x34 then getByte b.length (o - 0x30)
  else if o < 0x38 then getByte b.tiles (o - 0x34)
  else if o < 0x40 then 0
  else if o < 0x50 then packedByte b.grid ((o - 0x40) / 2) ((o - 0x40) % 2)
  else if o < 0x80 then 0
  else if o < 0xC0 then unpackedByte b.grid ((o - 0x80) / 8) ((o - 0x80) % 8)
  else 0

/-- MemRead(OFF, 4): 0 at CMD, else four bytes of the same state, little-endian (R86). -/
def wordView (b : Block) (o : Nat) : Word :=
  if o = 0x24 then 0
  else wordOfBytes (byteView b (o + 3)) (byteView b (o + 2)) (byteView b (o + 1)) (byteView b o)

/-! ## Writes -/

/-- W(o, v): write one byte at a writable offset, with its clearing of GV or RV (R90). `busCheck` refuses every other
offset before W is reached. -/
def writeByte (o : Nat) (v : Byte) (b : Block) : Block :=
  if h : o < 0x10 then clearGv { b with record := b.record.set o v }
  else if h : o < 0x20 then clearRv { b with hdr := b.hdr.set (o - 0x10) v }
  else if o < 0x24 then clearRv { b with imgLen := setByte b.imgLen (o - 0x20) v }
  else b

/-- The four byte writes of a data WR32, in one step (R43, R89). -/
def writeWord (o : Nat) (w : Word) (b : Block) : Block :=
  writeByte (o + 3) (getByte w 3) (writeByte (o + 2) (getByte w 2)
    (writeByte (o + 1) (getByte w 1) (writeByte o (getByte w 0) b)))

end Sys2Proof.Machine
end

