-- ==== Sys2Proof/Machine/Locate.lean ====
section
/-! DEFINITION. The region locator: the pure function locateRegion (R70) and the LOCATE command (R72). -/

namespace Sys2Proof.Machine

/-- What locateRegion returns: Ok(offset, length, tiles), exact naturals, or Err(code) (R70). -/
inductive LocateResult where
  | ok (offset length tiles : Nat)
  | err (code : BitVec 4)
deriving DecidableEq, Repr

/-- prgUnits = HDR[4], an unsigned number (R62). -/
def prgUnits (hdr : Bytes16) : Nat := hdr[Config.hdrPrg].toNat

/-- chrUnits = HDR[5], an unsigned number (R62). -/
def chrUnits (hdr : Bytes16) : Nat := hdr[Config.hdrChr].toNat

/-- The trainer flag: bit 2 of flags6 = HDR[6] (R65). -/
def trainer (hdr : Bytes16) : Bool := hdr[Config.hdrFlags6].getLsbD Config.trainerBit

/-- The region's offset: header, program ROM, and the trainer where the flag is set (R64, R65). -/
def regionOffset (hdr : Bytes16) : Nat :=
  Config.headerBytes + Config.prgUnit * prgUnits hdr + (if trainer hdr then Config.trainerBytes else 0)

/-- The region's length (R66). -/
def regionLength (hdr : Bytes16) : Nat := Config.chrUnit * chrUnits hdr

/-- The number of tile records: length / 16 (R67). -/
def regionTiles (hdr : Bytes16) : Nat := regionLength hdr / Config.tileBytes

/-- locateRegion (R70), with the checks in the order of R69. -/
def locateRegion (hdr : Bytes16) (imgLen : Word) : LocateResult :=
  if imgLen.toNat < Config.headerBytes then .err errTruncatedInput
  else if chrUnits hdr = 0 then .err errMissingGraphicsRom
  else if regionOffset hdr + regionLength hdr > imgLen.toNat then .err errTruncatedInput
  else .ok (regionOffset hdr) (regionLength hdr) (regionTiles hdr)

/-- The end of a command with an error: `fail(code)` of R13, with the outputs and RV cleared as R72 says of LOCATE. -/
def failLocate (code : BitVec 4) (b : Block) : Block :=
  setErr code (clearRv { b with offset := 0, length := 0, tiles := 0 })

/-- What the LOCATE command does to the registers (R72). The naturals of R70 are narrowed to their 32-bit registers,
which they fit (R71). -/
def runLocate (b : Block) : Block :=
  match locateRegion b.hdr b.imgLen with
  | .ok o l t =>
    setErr errNone
      { b with offset := BitVec.ofNat 32 o, length := BitVec.ofNat 32 l, tiles := BitVec.ofNat 32 t, rv := true }
  | .err code => failLocate code b

/-- LOCATE, as the transaction that carries its command word completes it (R72, R89). -/
def execLocate (s : State) : Host.Outcome State Fault Refusal :=
  .next (respond .done (mapBlock runLocate s))

end Sys2Proof.Machine
end

