-- ==== Sys2Proof/Machine/Unpack.lean ====
section
/-! DEFINITION. The bitplane unpacker: the pure function decodeTile (R78), its inverse (R83), and the DECODE command
(R82). -/

namespace Sys2Proof.Machine

/-- Bit x of record byte i (R78). -/
def recordBit (r : Bytes16) (i : Fin 16) (x : Fin 8) : Bool := r[i].getLsbD x

/-- One cell: high bit from plane B (byte y + 8), low bit from plane A (byte y) (R76). -/
def tileCell (r : Bytes16) (y x : Fin 8) : Pixel :=
  BitVec.ofBool (recordBit r ⟨y + 8, by omega⟩ x) ++ BitVec.ofBool (recordBit r ⟨y, by omega⟩ x)

/-- decodeTile (R78). -/
def decodeTile (r : Bytes16) : Grid := Vector.ofFn fun y => Vector.ofFn fun x => tileCell r y x

/-- The plane byte of a row: R83's sum over the columns x of one bit of the cell (bit 0 for plane A, bit 1 for plane B)
shifted left by x. -/
def planeByte (row : Vector Pixel 8) (plane : Nat) : Byte :=
  BitVec.ofNat 8 ((List.finRange 8).map fun x => (row[x].getLsbD plane).toNat <<< x.val).sum

/-- The inverse of decodeTile (R83): the record that unpacks to a given grid. -/
def recordOfGrid (g : Grid) : Bytes16 :=
  Vector.ofFn fun i => planeByte g[i.val % 8] (i.val / 8)

/-- What the DECODE command does to the registers (R82). -/
def runDecode (b : Block) : Block :=
  setErr errNone { b with grid := decodeTile b.record, gv := true }

/-- DECODE, as the transaction that carries its command word completes it (R82, R89). -/
def execDecode (s : State) : Host.Outcome State Fault Refusal :=
  .next (respond .done (mapBlock runDecode s))

end Sys2Proof.Machine
end

