-- ==== Sys2Proof/Machine/Bus.lean ====
section
/-! DEFINITION. The host bus transactions RD8, RD32, WR8 and WR32 (R84 to R90), and the command a WR32 to CMD runs
(R56). -/

namespace Sys2Proof.Machine

/-- ILLEGAL_COMMAND: ERR becomes 3 and nothing else changes (R56). -/
def illegalCommand (b : Block) : Block := setErr errIllegalCommand b

/-- The command a word written to CMD runs, selected by the whole word (R56, R89). -/
def runCommandWord (w : Word) (b : Block) : Block :=
  if w = cmdDecodeWord then runDecode b
  else if w = cmdLocateWord then runLocate b
  else illegalCommand b

/-- RD8 (R85). -/
def execRd8 (off : Offset) (s : State) : Host.Outcome State Fault Refusal :=
  access .read .one off (fun s => respond (.byte (byteView s.block off.toNat)) s) s

/-- RD32 (R86). -/
def execRd32 (off : Offset) (s : State) : Host.Outcome State Fault Refusal :=
  access .read .four off (fun s => respond (.word (wordView s.block off.toNat)) s) s

/-- WR8 (R88). -/
def execWr8 (off : Offset) (data : Byte) (s : State) : Host.Outcome State Fault Refusal :=
  access .write .one off (fun s => respond .done (mapBlock (writeByte off.toNat data) s)) s

/-- WR32 (R89): a command when the offset is CMD, else a data write. -/
def execWr32 (off : Offset) (data : Word) (s : State) : Host.Outcome State Fault Refusal :=
  access .write .four off
    (fun s => respond .done
      (mapBlock (if off = Config.symCmd then runCommandWord data else writeWord off.toNat data) s)) s

end Sys2Proof.Machine
end

