-- ==== Sys2Proof/Machine/Dispatch.lean ====
section
/-! DEFINITION. The meaning of every instruction: one arm per constructor of Instr. -/

namespace Sys2Proof.Machine

def exec (i : Instr) (s : State) : Host.Outcome State Fault Refusal :=
  match i with
  | .rd8 off => Sys2Proof.Machine.execRd8 off s
  | .rd32 off => Sys2Proof.Machine.execRd32 off s
  | .wr8 off data => Sys2Proof.Machine.execWr8 off data s
  | .wr32 off data => Sys2Proof.Machine.execWr32 off data s
  | .decode => Sys2Proof.Machine.execDecode s
  | .locate => Sys2Proof.Machine.execLocate s

end Sys2Proof.Machine
end

