-- ==== Sys2Proof/Machine/Step.lean ====
section
/-! DEFINITION. One step of the block: it serves the next event at its port, exactly one transaction, atomically (R7,
R43, R46), or takes a reset (R108). -/

namespace Sys2Proof.Machine

/-- One step. -/
def step (s : State) : Host.Outcome State Fault Refusal :=
  match fetchEvent s with
  | none => .fault .noTransaction
  | some (.reset, s') => .next (applyReset s')
  | some (.txn t, s') =>
    if errReserved s'.block then .fault .reservedErr
    else
      match decodeTxn t with
      | .error e => raiseBusError (busErrorOfDecode e) s'
      | .ok i => exec i s'

/-- The machine with a table word standing first at its port, so that the very next step serves it. A CMD word is carried
by the WR32 to CMD that issues it (R61). -/
def State.withFetchWord (s : State) (nbits w : Nat) : State :=
  match itemOfTableWord nbits w with
  | none => s
  | some item => putFirst (.txn (carrier item)) s

end Sys2Proof.Machine
end

