-- ==== Sys2Proof/Machine/Driver.lean ====
section
/-! DEFINITION. The host's side, as far as the spec fixes it: the cartridge image it holds (R31, R34 to R36), the
pseudo-instructions of R60 and the protocol of R111. The block never reads the image (R31) and enforces none of the
protocol (R97, R110), so nothing here is used by `exec` or `step`. -/

namespace Sys2Proof.Machine

/-- The cartridge image: the raw bytes of the file, held by the host (R31). -/
abbrev Image := List Byte

/-- The header of an image of at least 16 bytes (R34). -/
def imageHeader (img : Image) (h : 16 ≤ img.length) : Bytes16 := Vector.ofFn fun i => img[i.val]

/-- Record n of a region at `offset`: byte i is IMG[OFFSET + 16 n + i] (R36). A region that LOCATE accepted lies inside
the image (R38), so the bound holds for every n below TILES. -/
def tileRecord (img : Image) (offset n : Nat) (h : offset + 16 * n + 16 ≤ img.length) : Bytes16 :=
  Vector.ofFn fun i => img[offset + 16 * n + i.val]

/-- What the host writes to IMGLEN: the length, saturated at 0xFFFFFFFF (R21, R111). -/
def imgLenOf (len : Nat) : Word := BitVec.ofNat 32 (min len 0xFFFFFFFF)

/-- Word k of sixteen bytes, the byte at the lowest offset least significant (R37, R60). -/
def wordOf16 (r : Bytes16) (k : Fin 4) : Word :=
  wordOfBytes r[4 * k.val + 3] r[4 * k.val + 2] r[4 * k.val + 1] r[4 * k.val]

/-! ## Pseudo-instructions (R60) -/

/-- `decode`. -/
def pseudoDecode : List Instr := [.wr32 Config.symCmd cmdDecodeWord]

/-- `locate`. -/
def pseudoLocate : List Instr := [.wr32 Config.symCmd cmdLocateWord]

/-- `ldrec b0, ..., b15`. -/
def pseudoLdrec (r : Bytes16) : List Instr :=
  (List.finRange 4).map fun k => .wr32 (Config.symRec + BitVec.ofNat 8 (4 * k.val)) (wordOf16 r k)

/-- `ldhdr h0, ..., h15`. -/
def pseudoLdhdr (r : Bytes16) : List Instr :=
  (List.finRange 4).map fun k => .wr32 (Config.symHdr + BitVec.ofNat 8 (4 * k.val)) (wordOf16 r k)

/-- `setlen v`. -/
def pseudoSetlen (v : Word) : List Instr := [.wr32 Config.symImgLen v]

/-! ## The protocol for one image (R111) -/

/-- Steps 1 to 3: header, length, LOCATE, STATUS and the three results. -/
def protocolSetup (hdr : Bytes16) (len : Nat) : List Instr :=
  pseudoLdhdr hdr ++ pseudoSetlen (imgLenOf len) ++ pseudoLocate ++
    [.rd32 Config.symStatus, .rd32 Config.symOffset, .rd32 Config.symLength, .rd32 Config.symTiles]

/-- Step 4 for one tile, reading GRID as the four words of GRIDP. -/
def protocolTile (r : Bytes16) : List Instr :=
  pseudoLdrec r ++ pseudoDecode ++
    (List.finRange 4).map fun k => .rd32 (Config.symGridP + BitVec.ofNat 8 (4 * k.val))

/-- The whole protocol for an image whose records are `records`, in region order (R36, R111). -/
def protocol (hdr : Bytes16) (len : Nat) (records : List Bytes16) : List Instr :=
  protocolSetup hdr len ++ records.flatMap protocolTile

end Sys2Proof.Machine
end

