-- ==== Sys2Proof/Machine/Platform.lean ====
section
/-! DEFINITION. Several block instances side by side (R7, R106), each at its own base address (R33, R105). This is how the
model takes the two open parameters of R10 as arguments: TDEC_BASE is the `base` of an instance and N_INSTANCES the
number of instances. Each instance is a machine of its own; nothing is shared. -/

namespace Sys2Proof.Machine

/-- One block instance in the host's address space. -/
structure Placed where
  /-- TDEC_BASE: the host address of window offset 0x00 (R10, R33). -/
  base : Nat
  machine : State
deriving DecidableEq, Repr

/-- The platform: its instances, in some fixed order. -/
abbrev Platform := List Placed

/-- The instance's window holds this host address (R33). -/
def Placed.holds (p : Placed) (addr : Nat) : Bool := p.base ≤ addr && addr < p.base + Config.windowBytes

/-- The windows of two instances do not overlap (R33). -/
def Placed.disjoint (p q : Placed) : Bool :=
  p.base + Config.windowBytes ≤ q.base || q.base + Config.windowBytes ≤ p.base

/-- At least one instance, every base a multiple of 256, and no two windows overlapping (R10, R33). -/
def platformWf (ps : Platform) : Bool :=
  !ps.isEmpty && ps.all (fun p => p.base % Config.windowBytes == 0) &&
    decide (ps.Pairwise fun p q => p.disjoint q = true)

/-- The host's access to one instance: the descriptor of R53 whose OFF is the address's distance from TDEC_BASE, issued
at that instance's port. -/
def Placed.accept (p : Placed) (dir : Bool) (size : BitVec 2) (addr : Nat) (data : Word) : Placed :=
  { p with machine := issue (.txn (packTxn dir size (BitVec.ofNat 8 (addr - p.base)) data)) p.machine }

/-- The host accesses an address: the instance whose window holds it gets the transaction, and no other does (R33). -/
def hostAccess (ps : Platform) (dir : Bool) (size : BitVec 2) (addr : Nat) (data : Word) : Platform :=
  ps.map fun p => if p.holds addr then p.accept dir size addr data else p

/-- The platform asserts the reset input of instance `k` (R108). -/
def assertReset (k : Nat) (ps : Platform) : Platform :=
  ps.modify k fun p => { p with machine := issue .reset p.machine }

/-- Instance `k` takes one step. Which instance steps next is any schedule's choice (R106; U15). -/
def stepInstance (k : Nat) (ps : Platform) : Host.Outcome Platform Fault Refusal :=
  match ps[k]? with
  | none => .fault .noTransaction
  | some p =>
    match step p.machine with
    | .next m => .next (ps.set k { p with machine := m })
    | .fault f => .fault f
    | .refused r => .refused r

end Sys2Proof.Machine
end

