-- ==== Sys2Proof/Safety.lean ====
section
/-! DEFINITION. What holds of the registers in every reachable state: the two invariants of R29, the values ERR can hold
(R28), and what the region registers can hold (R24, R25, R26, R71, R72, R94). -/

namespace Sys2Proof.Machine

/-- Every register of R15 holds zero (R30). -/
abbrev RegistersZero (b : Block) : Prop :=
  (∀ i : Fin 16, b.record[i] = 0) ∧ (∀ i : Fin 16, b.hdr[i] = 0) ∧ b.imgLen = 0 ∧
  (∀ y x : Fin 8, b.grid[y][x] = 0) ∧ b.offset = 0 ∧ b.length = 0 ∧ b.tiles = 0 ∧
  b.gv = false ∧ b.rv = false ∧ b.err = 0

/-- If STATUS.GV = 1, then GRID = decodeTile(REC) (R29). -/
abbrev GridValid (b : Block) : Prop := b.gv = true → b.grid = decodeTile b.record

/-- If STATUS.RV = 1, then locateRegion(HDR, IMGLEN) = Ok(OFFSET, LENGTH, TILES) (R29). -/
abbrev RegionValid (b : Block) : Prop :=
  b.rv = true → locateRegion b.hdr b.imgLen = .ok b.offset.toNat b.length.toNat b.tiles.toNat

/-- The two invariants of R29. -/
abbrev ValidityBits (b : Block) : Prop := GridValid b ∧ RegionValid b

/-- ERR never holds 4 to 15 (R28). -/
abbrev ErrLegal (b : Block) : Prop := b.err.toNat ≤ 3

/-- The region registers hold zeros, or a region within the bounds of R71: bits 31:23 of OFFSET are zero (R24), LENGTH is
a multiple of 8192 from 8192 to 2,088,960 (R25), and TILES is LENGTH / 16 (R26). -/
abbrev RegionRegisters (b : Block) : Prop :=
  (b.offset = 0 ∧ b.length = 0 ∧ b.tiles = 0) ∨
  (16 ≤ b.offset.toNat ∧ b.offset.toNat ≤ 4178448 ∧ b.length.toNat % 8192 = 0 ∧ 8192 ≤ b.length.toNat ∧
    b.length.toNat ≤ 2088960 ∧ b.tiles.toNat * 16 = b.length.toNat)

/-- While ERR still says that a LOCATE failed, RV is 0 and the region registers are zero (R72, R94). -/
abbrev FailedLocateCleared (b : Block) : Prop :=
  (b.err = errMissingGraphicsRom ∨ b.err = errTruncatedInput) →
    b.rv = false ∧ b.offset = 0 ∧ b.length = 0 ∧ b.tiles = 0

/-- What the ERR field and the region registers can hold. -/
abbrev ResultRegisters (b : Block) : Prop := ErrLegal b ∧ RegionRegisters b ∧ FailedLocateCleared b

/-- The whole invariant. -/
abbrev Inv (b : Block) : Prop := ValidityBits b ∧ ResultRegisters b

end Sys2Proof.Machine
end

