-- ==== Sys2Proof/Certificates/Slice0/Obligations.lean ====
section
/-! DEFINITION. The statements for the provers, each formalising or derived from numbered rules of spec/. `CompletesWith`
spells out the next state of a transaction: the registers, the port unchanged, and one more answer. -/

namespace Sys2Proof.Statements

open Sys2Proof.Machine

/-- `i` at `s` completes with the registers `b` and the answer `r`, and with nothing else changed. -/
abbrev CompletesWith (i : Instr) (s : State) (b : Block) (r : Reply) : Prop :=
  exec i s = .next { block := b, inbox := s.inbox, replies := r :: s.replies }

/-- `i` at `s` is refused with a bus error for the reason `e`, and no register changes (R84, R95). -/
abbrev RefusedWith (i : Instr) (s : State) (e : BusError) : Prop :=
  CompletesWith i s s.block (.busError e)

/-- The ranges of the window that have a byte view (R32, R87). -/
abbrev Readable (o : Nat) : Prop :=
  o < 0x24 ∨ (0x28 ≤ o ∧ o < 0x38) ∨ (0x40 ≤ o ∧ o < 0x50) ∨ (0x80 ≤ o ∧ o < 0xC0)

/-- The unmapped ranges of the window (R32). -/
abbrev Unmapped (o : Nat) : Prop :=
  (0x38 ≤ o ∧ o ≤ 0x3F) ∨ (0x50 ≤ o ∧ o ≤ 0x7F) ∨ (0xC0 ≤ o ∧ o ≤ 0xFF)

/-- The read-only ranges of the window (R32). -/
abbrev ReadOnly (o : Nat) : Prop :=
  (0x28 ≤ o ∧ o ≤ 0x37) ∨ (0x40 ≤ o ∧ o ≤ 0x4F) ∨ (0x80 ≤ o ∧ o ≤ 0xBF)

/-- The transaction at the head of the port is one that decodes to `i`. -/
abbrev Serves (s : State) (i : Instr) : Prop :=
  ∃ w q, s.inbox = .txn w :: q ∧ decodeTxn w = .ok i

/-- The event at the head of the port is a reset. -/
abbrev TakesReset (s : State) : Prop := ∃ q, s.inbox = .reset :: q

end Sys2Proof.Statements

open Sys2Proof Sys2Proof.Machine Sys2Proof.Statements

/-! ## Reset -/

/-- R30: a reset sets every register of R15 to zero; both the model's reset state and every reset event. -/
def Obligations.ResetZeroesEveryRegister : Prop :=
  RegistersZero State.reset.block ∧
  ∀ (s : State) (q : List HostEvent), s.inbox = .reset :: q →
    ∃ t, step s = .next t ∧ RegistersZero t.block

/-- R108, R109: the reset state serves any transaction at once, and the invariants of R29 hold of it. -/
def Obligations.ResetStateServesAndIsValid : Prop :=
  ValidityBits State.reset.block ∧ ∀ w : Txn, ∃ t, step (issue (.txn w) State.reset) = .next t

/-- R28, R24 to R26, R94 at reset: the result registers' invariant holds of the reset state. -/
def Obligations.ResetResultRegistersLegal : Prop := ResultRegisters State.reset.block

/-! ## Invariants every step keeps -/

/-- R29, as one step of its induction: from any state in which both validity bits tell the truth, every step leaves
them so. -/
def Obligations.StepKeepsValidityBits : Prop :=
  ∀ s t : State, ValidityBits s.block → step s = .next t → ValidityBits t.block

/-- R28 (ERR never 4 to 15), R24 to R26 with R71 (what the region registers hold) and R94 (a failed LOCATE's record):
every step keeps them. -/
def Obligations.StepKeepsResultRegisters : Prop :=
  ∀ s t : State, ResultRegisters s.block → step s = .next t → ResultRegisters t.block

/-! ## Encoding -/

/-- R53 to R57: no instruction's encoding loses an operand bit. -/
def Obligations.DecodeEncodeRoundTrip : Prop :=
  ∀ i : Instr, decodeItem (encode i) = .ok i

/-- R55: the only bits of an encoding the decoder drops are those the rule calls ignored. -/
def Obligations.EncodeDecodeKeepsUsedBits : Prop :=
  (∀ (t : Txn) (off : Offset), decodeTxn t = .ok (.rd8 off) → encode (.rd8 off) = .txn (t &&& 0xFFFFFFFF00000000)) ∧
  (∀ (t : Txn) (off : Offset), decodeTxn t = .ok (.rd32 off) →
    encode (.rd32 off) = .txn (t &&& 0xFFFFFFFF00000000)) ∧
  (∀ (t : Txn) (off : Offset) (v : Byte), decodeTxn t = .ok (.wr8 off v) →
    encode (.wr8 off v) = .txn (t &&& 0xFFFFFFFF000000FF)) ∧
  (∀ (t : Txn) (off : Offset) (v : Word), decodeTxn t = .ok (.wr32 off v) → encode (.wr32 off v) = .txn t) ∧
  (∀ (w : Word) (i : Instr), decodeCmd w = .ok i → encode i = .cmd w)

/-- R53: a TXN is (DIR << 42) | (SZ << 40) | (OFF << 32) | DATA, its RSV field is zero, and its fields read back. -/
def Obligations.TxnFieldsLayout : Prop :=
  ∀ (dir : Bool) (size : BitVec 2) (off : Offset) (data : Word),
    packTxn dir size off data =
      ((BitVec.ofBool dir).setWidth 64 <<< 42) ||| (size.setWidth 64 <<< 40) ||| (off.setWidth 64 <<< 32) |||
        data.setWidth 64 ∧
    txnRsv (packTxn dir size off data) = 0 ∧ txnDir (packTxn dir size off data) = dir ∧
    txnSize (packTxn dir size off data) = size ∧ txnOff (packTxn dir size off data) = off ∧
    txnData (packTxn dir size off data) = data

/-- R54: decodeTXN on all 2^64 values, by the bits themselves; both refusals are BusError(RESERVED). -/
def Obligations.TxnDecoding : Prop :=
  ∀ t : Txn,
    (t.extractLsb 63 43 ≠ 0 → ∃ e, decodeTxn t = .error e ∧ busErrorOfDecode e = .reserved) ∧
    (t.getLsbD 40 = true → ∃ e, decodeTxn t = .error e ∧ busErrorOfDecode e = .reserved) ∧
    (t.extractLsb 63 43 = 0 → t.getLsbD 40 = false →
      decodeTxn t =
        match t.getLsbD 42, t.getLsbD 41 with
        | false, false => .ok (.rd8 (t.extractLsb 39 32))
        | false, true => .ok (.rd32 (t.extractLsb 39 32))
        | true, false => .ok (.wr8 (t.extractLsb 39 32) (t.extractLsb 7 0))
        | true, true => .ok (.wr32 (t.extractLsb 39 32) (t.extractLsb 31 0)))

/-- R61: the worked encodings, decoded and encoded. -/
def Obligations.WorkedEncodings : Prop :=
  decodeTxn 0x0000062400000001 = .ok (.wr32 0x24 0x00000001) ∧
  encode (.wr32 0x24 0x00000001) = .txn 0x0000062400000001 ∧
  decodeTxn 0x0000062400000002 = .ok (.wr32 0x24 0x00000002) ∧
  encode (.wr32 0x24 0x00000002) = .txn 0x0000062400000002 ∧
  decodeTxn 0x0000022800000000 = .ok (.rd32 0x28) ∧ encode (.rd32 0x28) = .txn 0x0000022800000000 ∧
  decodeTxn 0x0000040800000001 = .ok (.wr8 0x08 0x01) ∧ encode (.wr8 0x08 0x01) = .txn 0x0000040800000001 ∧
  decodeTxn 0x0000008000000000 = .ok (.rd8 0x80) ∧ encode (.rd8 0x80) = .txn 0x0000008000000000 ∧
  decodeTxn 0x0000062000002010 = .ok (.wr32 0x20 0x00002010) ∧
  encode (.wr32 0x20 0x00002010) = .txn 0x0000062000002010 ∧
  decodeTxn 0x0000022C00000000 = .ok (.rd32 0x2C) ∧ encode (.rd32 0x2C) = .txn 0x0000022C00000000

/-! ## The step -/

/-- R7, R46: when the next transaction decodes, the step takes it from the port and is `exec` of it. -/
def Obligations.StepRunsTheDecodedTransaction : Prop :=
  ∀ (s : State) (w : Txn) (q : List HostEvent) (i : Instr),
    s.inbox = .txn w :: q → ErrLegal s.block → decodeTxn w = .ok i →
      step s = exec i { s with inbox := q }

/-- A table word placed at the port is the instruction the next step runs: a TXN as it stands, a CMD word as the WR32 to
CMD that carries it (R52, R56, R61). The port is the model's (log entry 2). -/
def Obligations.PlacedWordRunsNext : Prop :=
  ∀ (s : State) (nbits w : Nat) (i : Instr),
    ErrLegal s.block → decodeTableWord nbits w = some i → step (s.withFetchWord nbits w) = exec i s

/-- R54, R58: a reserved TXN is answered with BusError(RESERVED) and changes no register. -/
def Obligations.ReservedTxnChangesNothing : Prop :=
  ∀ (s : State) (w : Txn) (q : List HostEvent), s.inbox = .txn w :: q → ErrLegal s.block →
    (w.extractLsb 63 43 ≠ 0 ∨ w.getLsbD 40 = true) →
      step s = .next { block := s.block, inbox := q, replies := .busError .reserved :: s.replies }

/-- R46: a step serves exactly the oldest event issued, leaves the later ones in their order, and answers each
transaction once (a reset is not answered). -/
def Obligations.EventsServedInIssueOrder : Prop :=
  ∀ s t : State, step s = .next t →
    (s.inbox = .reset :: t.inbox ∧ t.replies = s.replies) ∨
    (∃ w r, s.inbox = .txn w :: t.inbox ∧ t.replies = r :: s.replies)

/-- When no step is taken: with nothing issued (R7; log entry 3), and in the states R28 rules out, whose ERR is 4 to 15
(U6; log entry 4). In every other state with an event at the port the step has a next state (R93, R114). -/
def Obligations.StepStopsOnlyWhenIdleOrErrReserved : Prop :=
  ∀ s : State,
    (s.inbox = [] → step s = .fault .noTransaction) ∧
    (∀ w q, s.inbox = .txn w :: q → ¬ ErrLegal s.block → step s = .fault .reservedErr) ∧
    (∀ w q, s.inbox = .txn w :: q → ErrLegal s.block → ∃ t, step s = .next t) ∧
    (∀ q, s.inbox = .reset :: q → ∃ t, step s = .next t)

/-- R93: no bus error and no command error stops the block: every transaction at every state has a next state. -/
def Obligations.EveryTransactionCompletes : Prop :=
  ∀ (i : Instr) (s : State), ∃ t, exec i s = .next t ∧ t.inbox = s.inbox ∧ ∃ r, t.replies = r :: s.replies

/-! ## Access checks -/

/-- R84: the checks in their order, for each of the four transactions, after the decoding of check 1; whatever check fails,
nothing but the answer changes. -/
def Obligations.AccessChecksInOrder : Prop :=
  ∀ (s : State) (off : Offset) (v : Byte) (w : Word),
    (∀ t q e, s.inbox = .txn t :: q → ErrLegal s.block → decodeTxn t = .error e →
      step s = .next { block := s.block, inbox := q, replies := .busError .reserved :: s.replies }) ∧
    (Unmapped off.toNat → RefusedWith (.rd8 off) s .unmapped ∧ RefusedWith (.wr8 off v) s .unmapped) ∧
    (0x24 ≤ off.toNat → off.toNat ≤ 0x27 → RefusedWith (.rd8 off) s .width ∧ RefusedWith (.wr8 off v) s .width) ∧
    (ReadOnly off.toNat → RefusedWith (.wr8 off v) s .readOnly) ∧
    (off.toNat % 4 ≠ 0 → RefusedWith (.rd32 off) s .misaligned ∧ RefusedWith (.wr32 off w) s .misaligned) ∧
    (off.toNat % 4 = 0 → Unmapped off.toNat →
      RefusedWith (.rd32 off) s .unmapped ∧ RefusedWith (.wr32 off w) s .unmapped) ∧
    (off.toNat % 4 = 0 → ReadOnly off.toNat → RefusedWith (.wr32 off w) s .readOnly)

/-- R42, R86, R89: a 4-byte access is answered with MISALIGNED exactly when its operand is not well formed; it is never
split. -/
def Obligations.MisalignedExactlyWhenIllFormed : Prop :=
  ∀ (i : Instr) (s : State), RefusedWith i s .misaligned ↔ i.wellFormed = false

/-! ## Reads -/

/-- R87: the byte view of the state at every mapped offset outside CMD. -/
def Obligations.ByteViewOfRegisters : Prop :=
  ∀ b : Block,
    (∀ i : Fin 16, byteView b i = b.record[i]) ∧
    (∀ i : Fin 16, byteView b (0x10 + i) = b.hdr[i]) ∧
    (∀ k : Fin 4, byteView b (0x20 + k) = (b.imgLen >>> (8 * k.val)).setWidth 8) ∧
    byteView b 0x28 = (0 : BitVec 6) ++ BitVec.ofBool b.rv ++ BitVec.ofBool b.gv ∧
    byteView b 0x29 = (0 : BitVec 4) ++ b.err ∧ byteView b 0x2A = 0 ∧ byteView b 0x2B = 0 ∧
    (∀ k : Fin 4, byteView b (0x2C + k) = (b.offset >>> (8 * k.val)).setWidth 8) ∧
    (∀ k : Fin 4, byteView b (0x30 + k) = (b.length >>> (8 * k.val)).setWidth 8) ∧
    (∀ k : Fin 4, byteView b (0x34 + k) = (b.tiles >>> (8 * k.val)).setWidth 8) ∧
    (∀ (y : Fin 8) (h : Fin 2), byteView b (0x40 + 2 * y + h) =
      b.grid[y][4 * h.val + 3] ++ b.grid[y][4 * h.val + 2] ++ b.grid[y][4 * h.val + 1] ++ b.grid[y][4 * h.val]) ∧
    (∀ y x : Fin 8, byteView b (0x80 + 8 * y + x) = (b.grid[y][x]).setWidth 8)

/-- R85: RD8 answers the byte view at every mapped offset outside CMD, is refused at every other offset, and has no other
effect. -/
def Obligations.Rd8AnswersByteView : Prop :=
  ∀ (s : State) (off : Offset),
    (Readable off.toNat → CompletesWith (.rd8 off) s s.block (.byte (byteView s.block off.toNat))) ∧
    (0x24 ≤ off.toNat → off.toNat ≤ 0x27 → RefusedWith (.rd8 off) s .width) ∧
    (Unmapped off.toNat → RefusedWith (.rd8 off) s .unmapped)

/-- R86: RD32 answers 0 at CMD and the little-endian word of four byte views of the same state at every other aligned
mapped offset, is refused at every other offset, and has no other effect. -/
def Obligations.Rd32AnswersLittleEndianWord : Prop :=
  ∀ (s : State) (off : Offset),
    CompletesWith (.rd32 0x24) s s.block (.word 0) ∧
    (off.toNat % 4 = 0 → Readable off.toNat →
      CompletesWith (.rd32 off) s s.block
        (.word (byteView s.block (off.toNat + 3) ++ byteView s.block (off.toNat + 2) ++
          byteView s.block (off.toNat + 1) ++ byteView s.block off.toNat))) ∧
    (off.toNat % 4 ≠ 0 → RefusedWith (.rd32 off) s .misaligned) ∧
    (off.toNat % 4 = 0 → Unmapped off.toNat → RefusedWith (.rd32 off) s .unmapped)

/-- R28: the fields of the STATUS word a RD32 answers, and its reserved bits, which read as zero. -/
def Obligations.StatusWordFields : Prop :=
  ∀ s : State, ∃ w : Word, CompletesWith (.rd32 0x28) s s.block (.word w) ∧
    w.getLsbD 0 = s.block.gv ∧ w.getLsbD 1 = s.block.rv ∧ w.extractLsb' 8 4 = s.block.err ∧
    w.extractLsb' 2 6 = 0 ∧ w.extractLsb' 12 20 = 0

/-- R24 to R26, R40: a RD32 of a 32-bit register answers the register. -/
def Obligations.Rd32ReadsWholeRegisters : Prop :=
  ∀ s : State,
    CompletesWith (.rd32 0x20) s s.block (.word s.block.imgLen) ∧
    CompletesWith (.rd32 0x2C) s s.block (.word s.block.offset) ∧
    CompletesWith (.rd32 0x30) s s.block (.word s.block.length) ∧
    CompletesWith (.rd32 0x34) s s.block (.word s.block.tiles)

/-- R44, first half, as the frame of both reads: whatever a read answers, no register changes, and the same read again
gives the same answer. -/
def Obligations.ReadsAreIdempotentWithoutEffect : Prop :=
  ∀ (i : Instr) (s t u : State), (∃ off, i = .rd8 off ∨ i = .rd32 off) →
    exec i s = .next t → exec i t = .next u →
      t.block = s.block ∧ u.block = s.block ∧ u.replies.head? = t.replies.head?

/-- R23: cell (y, x) sits at bits 2(x-4h)+1 to 2(x-4h) of its packed byte, with h = x >> 2, and at bits 16(y-2k)+2x+1 to
16(y-2k)+2x of its packed word, with k = y >> 1; the unpacked byte is the cell with bits 7:2 zero; the views agree. -/
def Obligations.GridViewsAgree : Prop :=
  ∀ (b : Block) (y x : Fin 8),
    (byteView b (0x40 + 2 * y + x.val / 4)).extractLsb' (2 * (x.val - 4 * (x.val / 4))) 2 = b.grid[y][x] ∧
    (wordView b (0x40 + 4 * (y.val / 2))).extractLsb' (16 * (y.val - 2 * (y.val / 2)) + 2 * x) 2 = b.grid[y][x] ∧
    (byteView b (0x80 + 8 * y + x)).extractLsb' 0 2 = b.grid[y][x] ∧
    (byteView b (0x80 + 8 * y + x)).extractLsb' 2 6 = 0

/-- R41, reads: a RD32 answers the four bytes that RD8s of the same state answer, lowest offset least significant. -/
def Obligations.WordReadAgreesWithByteReads : Prop :=
  ∀ (s : State) (off : Offset), off.toNat % 4 = 0 → Readable off.toNat →
    ∃ w : Word, CompletesWith (.rd32 off) s s.block (.word w) ∧
      ∀ k : Fin 4, CompletesWith (.rd8 (off + BitVec.ofNat 8 k)) s s.block (.byte (w.extractLsb' (8 * k.val) 8))

/-! ## Writes -/

/-- R88, R90: WR8 at each writable offset, with the register byte it writes and the validity bit it clears; ERR and every
other register stay. At every other offset it is refused. -/
def Obligations.Wr8WritesOneByte : Prop :=
  ∀ (s : State) (v : Byte),
    (∀ off : Offset,
      (0x24 ≤ off.toNat → off.toNat ≤ 0x27 → RefusedWith (.wr8 off v) s .width) ∧
      (Unmapped off.toNat → RefusedWith (.wr8 off v) s .unmapped) ∧
      (ReadOnly off.toNat → RefusedWith (.wr8 off v) s .readOnly)) ∧
    (∀ i : Fin 16, CompletesWith (.wr8 (BitVec.ofNat 8 i) v) s
      { s.block with record := s.block.record.set i v, gv := false } .done) ∧
    (∀ i : Fin 16, CompletesWith (.wr8 (BitVec.ofNat 8 (0x10 + i)) v) s
      { s.block with hdr := s.block.hdr.set i v, rv := false } .done) ∧
    (∀ k : Fin 4, ∃ w : Word, CompletesWith (.wr8 (BitVec.ofNat 8 (0x20 + k)) v) s
      { s.block with imgLen := w, rv := false } .done ∧
      ∀ j < 32, w.getLsbD j = if j / 8 = k then v.getLsbD (j % 8) else s.block.imgLen.getLsbD j)

/-- R89, R40: a data WR32 writes four bytes at once, byte 4k+j of the register array from bits 8j+7:8j, or all of
IMGLEN, and clears the validity bit. -/
def Obligations.Wr32WritesFourBytes : Prop :=
  ∀ (s : State) (w : Word),
    (∀ k : Fin 4, CompletesWith (.wr32 (BitVec.ofNat 8 (4 * k)) w) s
      { s.block with
        record := Vector.ofFn fun i : Fin 16 =>
          if i.val / 4 = k then w.extractLsb' (8 * (i.val % 4)) 8 else s.block.record[i]
        gv := false } .done) ∧
    (∀ k : Fin 4, CompletesWith (.wr32 (BitVec.ofNat 8 (0x10 + 4 * k)) w) s
      { s.block with
        hdr := Vector.ofFn fun i : Fin 16 =>
          if i.val / 4 = k then w.extractLsb' (8 * (i.val % 4)) 8 else s.block.hdr[i]
        rv := false } .done) ∧
    CompletesWith (.wr32 0x20 w) s { s.block with imgLen := w, rv := false } .done

/-- R87, R90: what a WR8 stores is what the next read of that byte answers. -/
def Obligations.ByteReadsBackAfterWrite : Prop :=
  ∀ (s t : State) (off : Offset) (v : Byte), off.toNat < 0x24 → exec (.wr8 off v) s = .next t →
    CompletesWith (.rd8 off) t t.block (.byte v)

/-- R90, the frame of WR8 and of a data WR32 in the terms of the window's byte view: every byte outside the stored ones
reads as before, but for the low byte of STATUS, which holds GV and RV; and no output register, no ERR, and no validity
bit of the other unit changes. -/
def Obligations.DataWriteFrame : Prop :=
  ∀ (s t : State) (off : Offset) (v : Byte) (w : Word),
    (exec (.wr8 off v) s = .next t →
      (∀ o : Nat, o ≠ off.toNat → o ≠ 0x28 → byteView t.block o = byteView s.block o) ∧
      t.block.grid = s.block.grid ∧ t.block.offset = s.block.offset ∧ t.block.length = s.block.length ∧
      t.block.tiles = s.block.tiles ∧ t.block.err = s.block.err ∧
      (0x10 ≤ off.toNat → t.block.gv = s.block.gv) ∧
      (off.toNat < 0x10 ∨ 0x24 ≤ off.toNat → t.block.rv = s.block.rv)) ∧
    (off ≠ 0x24 → exec (.wr32 off w) s = .next t →
      (∀ o : Nat, (o < off.toNat ∨ off.toNat + 4 ≤ o) → o ≠ 0x28 → byteView t.block o = byteView s.block o) ∧
      t.block.grid = s.block.grid ∧ t.block.offset = s.block.offset ∧ t.block.length = s.block.length ∧
      t.block.tiles = s.block.tiles ∧ t.block.err = s.block.err ∧
      (0x10 ≤ off.toNat → t.block.gv = s.block.gv) ∧
      (off.toNat < 0x10 ∨ 0x24 ≤ off.toNat → t.block.rv = s.block.rv))

/-- R41, R89, writes: a data WR32 leaves the registers as four WR8s of its bytes in rising order do. -/
def Obligations.WordWriteAgreesWithByteWrites : Prop :=
  ∀ (s : State) (off : Offset) (w : Word), off.toNat % 4 = 0 → off.toNat < 0x24 →
    ∃ t t₀ t₁ t₂ t₃ : State, exec (.wr32 off w) s = .next t ∧
      exec (.wr8 off (w.extractLsb' 0 8)) s = .next t₀ ∧
      exec (.wr8 (off + 1) (w.extractLsb' 8 8)) t₀ = .next t₁ ∧
      exec (.wr8 (off + 2) (w.extractLsb' 16 8)) t₁ = .next t₂ ∧
      exec (.wr8 (off + 3) (w.extractLsb' 24 8)) t₂ = .next t₃ ∧ t.block = t₃.block

/-- R37: the order in which two different record bytes are written does not matter to the registers. -/
def Obligations.RecordWriteOrderIrrelevant : Prop :=
  ∀ (s t t' u u' : State) (off off' : Offset) (v v' : Byte), off ≠ off' → off.toNat < 0x10 → off'.toNat < 0x10 →
    exec (.wr8 off v) s = .next t → exec (.wr8 off' v') t = .next u →
    exec (.wr8 off' v') s = .next t' → exec (.wr8 off v) t' = .next u' → u.block = u'.block

/-! ## Commands -/

/-- R56, R89: a WR32 to CMD runs the command its whole word selects; any other word sets ERR to 3 and changes nothing
else. -/
def Obligations.CommandWordSelectsCommand : Prop :=
  ∀ (s : State) (w : Word),
    exec (.wr32 0x24 0x00000001) s = exec .decode s ∧
    exec (.wr32 0x24 0x00000002) s = exec .locate s ∧
    (w ≠ 0x00000001 → w ≠ 0x00000002 → CompletesWith (.wr32 0x24 w) s { s.block with err := 3 } .done)

/-- R82: DECODE writes GRID, GV and ERR and leaves every other register as it was, whatever the state; its CMD word is
0x00000001. -/
def Obligations.DecodeCommandResult : Prop :=
  ∀ (s : State) (i : Instr), (i = .decode ∨ i = .wr32 0x24 0x00000001) →
    CompletesWith i s { s.block with grid := decodeTile s.block.record, gv := true, err := 0 } .done

/-- R74 to R76: each cell is (bitB << 1) | bitA, with bitA = (REC[y] >> x) & 1 and bitB = (REC[y + 8] >> x) & 1. -/
def Obligations.TileCellCombinesPlanes : Prop :=
  ∀ (r : Bytes16) (y x : Fin 8),
    ((decodeTile r)[y][x]).toNat =
      (((r[y.val + 8].toNat >>> x.val) &&& 1) <<< 1) ||| ((r[y.val].toNat >>> x.val) &&& 1)

/-- R83: decodeTile is a bijection, with the inverse the rule gives for each plane byte. -/
def Obligations.TileUnpackingIsBijective : Prop :=
  (∀ g : Grid, ∃ r : Bytes16, decodeTile r = g) ∧
  (∀ (r : Bytes16) (y : Fin 8),
    r[y.val].toNat = ((List.finRange 8).map fun x => (((decodeTile r)[y][x]).toNat &&& 1) <<< x.val).sum ∧
    r[y.val + 8].toNat = ((List.finRange 8).map fun x => (((decodeTile r)[y][x]).toNat >>> 1) <<< x.val).sum) ∧
  (∀ r : Bytes16, recordOfGrid (decodeTile r) = r) ∧ (∀ g : Grid, decodeTile (recordOfGrid g) = g)

/-- R79: lane (y, x) reads only bit x of REC[y] and of REC[y + 8], and a byte of REC feeds one row only. -/
def Obligations.TileLanesIndependent : Prop :=
  (∀ (r r' : Bytes16) (y x : Fin 8), r[y.val].getLsbD x = r'[y.val].getLsbD x →
    r[y.val + 8].getLsbD x = r'[y.val + 8].getLsbD x → (decodeTile r)[y][x] = (decodeTile r')[y][x]) ∧
  (∀ (r : Bytes16) (i : Fin 16) (v : Byte) (y : Fin 8), i.val % 8 ≠ y →
    (decodeTile (r.set i v))[y] = (decodeTile r)[y])

/-- R72: LOCATE writes OFFSET, LENGTH, TILES, RV and ERR by locateRegion's result and leaves every other register as it
was, whatever the state; its CMD word is 0x00000002. -/
def Obligations.LocateCommandResult : Prop :=
  ∀ (s : State) (i : Instr), (i = .locate ∨ i = .wr32 0x24 0x00000002) →
    (∀ o l t, locateRegion s.block.hdr s.block.imgLen = .ok o l t →
      CompletesWith i s
        { s.block with
          offset := BitVec.ofNat 32 o, length := BitVec.ofNat 32 l, tiles := BitVec.ofNat 32 t, rv := true, err := 0 }
        .done) ∧
    (∀ c, locateRegion s.block.hdr s.block.imgLen = .err c →
      CompletesWith i s { s.block with offset := 0, length := 0, tiles := 0, rv := false, err := c } .done)

/-- R62 to R70: locateRegion, with its checks in the order of R69 and its exact values, from the header bytes
themselves. -/
def Obligations.LocateRegionByHeaderBytes : Prop :=
  ∀ (hdr : Bytes16) (imgLen : Word),
    let offset := 16 + 16384 * hdr[4].toNat + (if hdr[6] &&& 0b00000100 ≠ 0 then 512 else 0)
    let length := 8192 * hdr[5].toNat
    (imgLen.toNat < 16 → locateRegion hdr imgLen = .err 2) ∧
    (16 ≤ imgLen.toNat → hdr[5] = 0 → locateRegion hdr imgLen = .err 1) ∧
    (16 ≤ imgLen.toNat → hdr[5] ≠ 0 → imgLen.toNat < offset + length → locateRegion hdr imgLen = .err 2) ∧
    (16 ≤ imgLen.toNat → hdr[5] ≠ 0 → offset + length ≤ imgLen.toNat →
      locateRegion hdr imgLen = .ok offset length (length / 16))

/-- R71: every value of a located region fits its register, within the stated maxima, which are attained. -/
def Obligations.LocateResultFitsRegisters : Prop :=
  (∀ (hdr : Bytes16) (imgLen : Word) (o l t : Nat), locateRegion hdr imgLen = .ok o l t →
    o ≤ 4178448 ∧ l ≤ 2088960 ∧ o + l ≤ 6267408 ∧ t ≤ 130560 ∧ t * 16 = l ∧
    (BitVec.ofNat 32 o).toNat = o ∧ (BitVec.ofNat 32 l).toNat = l ∧ (BitVec.ofNat 32 t).toNat = t) ∧
  (∀ hdr : Bytes16, hdr[4] = 255 → hdr[5] = 255 → hdr[6].getLsbD 2 = true →
    locateRegion hdr 0xFFFFFFFF = .ok 4178448 2088960 130560)

/-- R65, R70: LOCATE's result depends on HDR[4], HDR[5], bit 2 of HDR[6] and IMGLEN only. -/
def Obligations.LocateReadsFourInputsOnly : Prop :=
  ∀ (hdr hdr' : Bytes16) (imgLen : Word), hdr[4] = hdr'[4] → hdr[5] = hdr'[5] →
    hdr[6].getLsbD 2 = hdr'[6].getLsbD 2 → locateRegion hdr imgLen = locateRegion hdr' imgLen

/-- R73: the source's properties of `locate`, for an image of at least 16 bytes. -/
def Obligations.LocateSourceProperties : Prop :=
  ∀ (hdr : Bytes16) (imgLen : Word), 16 ≤ imgLen.toNat →
    (hdr[5] = 0 → locateRegion hdr imgLen = .err errMissingGraphicsRom) ∧
    (∀ o l t, locateRegion hdr imgLen = .ok o l t →
      (hdr[6].getLsbD 2 = false → o = 16 + 16384 * hdr[4].toNat) ∧
      (hdr[6].getLsbD 2 = true → o = 16 + 16384 * hdr[4].toNat + 512) ∧
      l = 8192 * hdr[5].toNat)

/-- R36, R38: after a LOCATE that succeeded with the true image length, every record below TILES lies inside the image,
the records are consecutive and they fill the region. -/
def Obligations.LocatedRecordsLieInsideImage : Prop :=
  ∀ (hdr : Bytes16) (img : Image) (o l t : Nat), img.length < 2 ^ 32 →
    locateRegion hdr (imgLenOf img.length) = .ok o l t →
      (∀ n < t, o + 16 * n + 16 ≤ img.length) ∧ t * 16 = l ∧
      ∀ a, o ≤ a → a < o + l → ∃ n < t, ∃ i < 16, a = o + 16 * n + i

/-- R57, R72, R82: the frame of the commands in the terms of the window's byte view. DECODE changes no byte outside STATUS
and the two views of GRID, LOCATE none outside STATUS, OFFSET, LENGTH and TILES, and an illegal word none but the byte of
ERR. -/
def Obligations.CommandFrame : Prop :=
  ∀ (s t : State) (o : Nat),
    (exec .decode s = .next t → o ≠ 0x28 → o ≠ 0x29 → ¬ (0x40 ≤ o ∧ o < 0xC0) →
      byteView t.block o = byteView s.block o) ∧
    (exec .decode s = .next t → t.block.rv = s.block.rv) ∧
    (exec .locate s = .next t → o ≠ 0x28 → o ≠ 0x29 → ¬ (0x2C ≤ o ∧ o < 0x38) →
      byteView t.block o = byteView s.block o) ∧
    (exec .locate s = .next t → t.block.gv = s.block.gv) ∧
    (∀ w : Word, w ≠ 1 → w ≠ 2 → exec (.wr32 0x24 w) s = .next t → o ≠ 0x29 →
      byteView t.block o = byteView s.block o)

/-- R72, R81: a command run twice with nothing between gives the result of running it once. -/
def Obligations.RepeatedCommandsGiveTheSameResult : Prop :=
  ∀ (s t u : State) (i : Instr), (i = .decode ∨ i = .locate) →
    exec i s = .next t → exec i t = .next u → u.block = t.block

/-! ## Rules over all transactions -/

/-- R22, R82: only DECODE writes GRID, reset apart. -/
def Obligations.GridWrittenOnlyByDecode : Prop :=
  ∀ s t : State, step s = .next t → t.block.grid ≠ s.block.grid →
    TakesReset s ∨ Serves s (.wr32 0x24 0x00000001)

/-- R24 to R26, R72: only LOCATE writes OFFSET, LENGTH and TILES, reset apart. -/
def Obligations.RegionWrittenOnlyByLocate : Prop :=
  ∀ s t : State, step s = .next t →
    (t.block.offset ≠ s.block.offset ∨ t.block.length ≠ s.block.length ∨ t.block.tiles ≠ s.block.tiles) →
    TakesReset s ∨ Serves s (.wr32 0x24 0x00000002)

/-- R101, R28: only a command or a reset changes ERR, and every command overwrites it. -/
def Obligations.ErrWrittenOnlyByCommands : Prop :=
  (∀ s t : State, step s = .next t → t.block.err ≠ s.block.err → TakesReset s ∨ ∃ w, Serves s (.wr32 0x24 w)) ∧
  (∀ s t : State, exec (.wr32 0x24 0x00000001) s = .next t → t.block.err = 0) ∧
  (∀ (s t : State) (w : Word), w ≠ 1 → w ≠ 2 → exec (.wr32 0x24 w) s = .next t → t.block.err = 3) ∧
  (∀ s t : State, exec (.wr32 0x24 0x00000002) s = .next t →
    t.block.err = match locateRegion s.block.hdr s.block.imgLen with
      | .ok _ _ _ => 0
      | .err c => c)

/-- R19, R28: what sets GV and what clears it. -/
def Obligations.GvChanges : Prop :=
  ∀ s t : State, step s = .next t →
    (s.block.gv = false → t.block.gv = true → Serves s (.wr32 0x24 0x00000001)) ∧
    (s.block.gv = true → t.block.gv = false →
      TakesReset s ∨ ∃ off : Offset, off.toNat < 0x10 ∧ ((∃ v, Serves s (.wr8 off v)) ∨ ∃ w, Serves s (.wr32 off w)))

/-- R20, R21, R28: what sets RV and what clears it. -/
def Obligations.RvChanges : Prop :=
  ∀ s t : State, step s = .next t →
    (s.block.rv = false → t.block.rv = true → Serves s (.wr32 0x24 0x00000002) ∧ t.block.err = 0) ∧
    (s.block.rv = true → t.block.rv = false →
      TakesReset s ∨ (Serves s (.wr32 0x24 0x00000002) ∧ t.block.err ≠ 0) ∨
      ∃ off : Offset, 0x10 ≤ off.toNat ∧ off.toNat < 0x24 ∧
        ((∃ v, Serves s (.wr8 off v)) ∨ ∃ w, Serves s (.wr32 off w)))

/-- R19 to R21, R90: only the host's own writes change REC, HDR and IMGLEN, reset apart; no command does. -/
def Obligations.InputsWrittenOnlyByDataWrites : Prop :=
  ∀ s t : State, step s = .next t →
    (t.block.record ≠ s.block.record ∨ t.block.hdr ≠ s.block.hdr ∨ t.block.imgLen ≠ s.block.imgLen) →
    TakesReset s ∨
      ∃ off : Offset, off.toNat < 0x24 ∧ ((∃ v, Serves s (.wr8 off v)) ∨ ∃ w, Serves s (.wr32 off w))

/-! ## Several instances -/

/-- R106: a step of one instance changes no other, and steps of two instances give the same platform in either order. -/
def Obligations.InstancesShareNoState : Prop :=
  ∀ (ps qs : Platform) (j k : Nat), j ≠ k → stepInstance j ps = .next qs →
    qs.length = ps.length ∧ qs[k]? = ps[k]? ∧
    ∀ rs, stepInstance k qs = .next rs → ∃ qs', stepInstance k ps = .next qs' ∧ stepInstance j qs' = .next rs

/-- R33, R105: window offset o of an instance sits at TDEC_BASE + o, and an access there reaches that instance alone, with
OFF = o. -/
def Obligations.HostAccessReachesOneWindow : Prop :=
  ∀ (ps : Platform) (k : Nat) (p : Placed) (o : Offset) (dir : Bool) (size : BitVec 2) (data : Word),
    platformWf ps = true → ps[k]? = some p →
      hostAccess ps dir size (p.base + o.toNat) data =
        ps.set k { p with machine := issue (.txn (packTxn dir size o data)) p.machine }
end

