-- ==== Sys2Proof/Laws/State.lean ====
section
/-! SUPPORT. One lemma per field per update of the state, true by rfl. -/

namespace Sys2Proof.Machine

/-! ## clearGv -/

@[simp] theorem clearGv_record (b : Block) : (clearGv b).record = b.record := rfl
@[simp] theorem clearGv_hdr (b : Block) : (clearGv b).hdr = b.hdr := rfl
@[simp] theorem clearGv_imgLen (b : Block) : (clearGv b).imgLen = b.imgLen := rfl
@[simp] theorem clearGv_grid (b : Block) : (clearGv b).grid = b.grid := rfl
@[simp] theorem clearGv_offset (b : Block) : (clearGv b).offset = b.offset := rfl
@[simp] theorem clearGv_length (b : Block) : (clearGv b).length = b.length := rfl
@[simp] theorem clearGv_tiles (b : Block) : (clearGv b).tiles = b.tiles := rfl
@[simp] theorem clearGv_gv (b : Block) : (clearGv b).gv = false := rfl
@[simp] theorem clearGv_rv (b : Block) : (clearGv b).rv = b.rv := rfl
@[simp] theorem clearGv_err (b : Block) : (clearGv b).err = b.err := rfl

/-! ## clearRv -/

@[simp] theorem clearRv_record (b : Block) : (clearRv b).record = b.record := rfl
@[simp] theorem clearRv_hdr (b : Block) : (clearRv b).hdr = b.hdr := rfl
@[simp] theorem clearRv_imgLen (b : Block) : (clearRv b).imgLen = b.imgLen := rfl
@[simp] theorem clearRv_grid (b : Block) : (clearRv b).grid = b.grid := rfl
@[simp] theorem clearRv_offset (b : Block) : (clearRv b).offset = b.offset := rfl
@[simp] theorem clearRv_length (b : Block) : (clearRv b).length = b.length := rfl
@[simp] theorem clearRv_tiles (b : Block) : (clearRv b).tiles = b.tiles := rfl
@[simp] theorem clearRv_gv (b : Block) : (clearRv b).gv = b.gv := rfl
@[simp] theorem clearRv_rv (b : Block) : (clearRv b).rv = false := rfl
@[simp] theorem clearRv_err (b : Block) : (clearRv b).err = b.err := rfl

/-! ## setErr -/

@[simp] theorem setErr_record (c : BitVec 4) (b : Block) : (setErr c b).record = b.record := rfl
@[simp] theorem setErr_hdr (c : BitVec 4) (b : Block) : (setErr c b).hdr = b.hdr := rfl
@[simp] theorem setErr_imgLen (c : BitVec 4) (b : Block) : (setErr c b).imgLen = b.imgLen := rfl
@[simp] theorem setErr_grid (c : BitVec 4) (b : Block) : (setErr c b).grid = b.grid := rfl
@[simp] theorem setErr_offset (c : BitVec 4) (b : Block) : (setErr c b).offset = b.offset := rfl
@[simp] theorem setErr_length (c : BitVec 4) (b : Block) : (setErr c b).length = b.length := rfl
@[simp] theorem setErr_tiles (c : BitVec 4) (b : Block) : (setErr c b).tiles = b.tiles := rfl
@[simp] theorem setErr_gv (c : BitVec 4) (b : Block) : (setErr c b).gv = b.gv := rfl
@[simp] theorem setErr_rv (c : BitVec 4) (b : Block) : (setErr c b).rv = b.rv := rfl
@[simp] theorem setErr_err (c : BitVec 4) (b : Block) : (setErr c b).err = c := rfl

/-! ## illegalCommand -/

@[simp] theorem illegalCommand_record (b : Block) : (illegalCommand b).record = b.record := rfl
@[simp] theorem illegalCommand_hdr (b : Block) : (illegalCommand b).hdr = b.hdr := rfl
@[simp] theorem illegalCommand_imgLen (b : Block) : (illegalCommand b).imgLen = b.imgLen := rfl
@[simp] theorem illegalCommand_grid (b : Block) : (illegalCommand b).grid = b.grid := rfl
@[simp] theorem illegalCommand_offset (b : Block) : (illegalCommand b).offset = b.offset := rfl
@[simp] theorem illegalCommand_length (b : Block) : (illegalCommand b).length = b.length := rfl
@[simp] theorem illegalCommand_tiles (b : Block) : (illegalCommand b).tiles = b.tiles := rfl
@[simp] theorem illegalCommand_gv (b : Block) : (illegalCommand b).gv = b.gv := rfl
@[simp] theorem illegalCommand_rv (b : Block) : (illegalCommand b).rv = b.rv := rfl
@[simp] theorem illegalCommand_err (b : Block) : (illegalCommand b).err = errIllegalCommand := rfl

/-! ## runDecode -/

@[simp] theorem runDecode_record (b : Block) : (runDecode b).record = b.record := rfl
@[simp] theorem runDecode_hdr (b : Block) : (runDecode b).hdr = b.hdr := rfl
@[simp] theorem runDecode_imgLen (b : Block) : (runDecode b).imgLen = b.imgLen := rfl
@[simp] theorem runDecode_grid (b : Block) : (runDecode b).grid = decodeTile b.record := rfl
@[simp] theorem runDecode_offset (b : Block) : (runDecode b).offset = b.offset := rfl
@[simp] theorem runDecode_length (b : Block) : (runDecode b).length = b.length := rfl
@[simp] theorem runDecode_tiles (b : Block) : (runDecode b).tiles = b.tiles := rfl
@[simp] theorem runDecode_gv (b : Block) : (runDecode b).gv = true := rfl
@[simp] theorem runDecode_rv (b : Block) : (runDecode b).rv = b.rv := rfl
@[simp] theorem runDecode_err (b : Block) : (runDecode b).err = errNone := rfl

/-! ## failLocate -/

@[simp] theorem failLocate_record (c : BitVec 4) (b : Block) : (failLocate c b).record = b.record := rfl
@[simp] theorem failLocate_hdr (c : BitVec 4) (b : Block) : (failLocate c b).hdr = b.hdr := rfl
@[simp] theorem failLocate_imgLen (c : BitVec 4) (b : Block) : (failLocate c b).imgLen = b.imgLen := rfl
@[simp] theorem failLocate_grid (c : BitVec 4) (b : Block) : (failLocate c b).grid = b.grid := rfl
@[simp] theorem failLocate_offset (c : BitVec 4) (b : Block) : (failLocate c b).offset = 0 := rfl
@[simp] theorem failLocate_length (c : BitVec 4) (b : Block) : (failLocate c b).length = 0 := rfl
@[simp] theorem failLocate_tiles (c : BitVec 4) (b : Block) : (failLocate c b).tiles = 0 := rfl
@[simp] theorem failLocate_gv (c : BitVec 4) (b : Block) : (failLocate c b).gv = b.gv := rfl
@[simp] theorem failLocate_rv (c : BitVec 4) (b : Block) : (failLocate c b).rv = false := rfl
@[simp] theorem failLocate_err (c : BitVec 4) (b : Block) : (failLocate c b).err = c := rfl

/-! ## The port -/

@[simp] theorem mapBlock_block (f : Block → Block) (s : State) : (mapBlock f s).block = f s.block := rfl
@[simp] theorem mapBlock_inbox (f : Block → Block) (s : State) : (mapBlock f s).inbox = s.inbox := rfl
@[simp] theorem mapBlock_replies (f : Block → Block) (s : State) : (mapBlock f s).replies = s.replies := rfl
@[simp] theorem respond_block (r : Reply) (s : State) : (respond r s).block = s.block := rfl
@[simp] theorem respond_inbox (r : Reply) (s : State) : (respond r s).inbox = s.inbox := rfl
@[simp] theorem respond_replies (r : Reply) (s : State) : (respond r s).replies = r :: s.replies := rfl
@[simp] theorem issue_block (e : HostEvent) (s : State) : (issue e s).block = s.block := rfl
@[simp] theorem issue_inbox (e : HostEvent) (s : State) : (issue e s).inbox = s.inbox ++ [e] := rfl
@[simp] theorem issue_replies (e : HostEvent) (s : State) : (issue e s).replies = s.replies := rfl
@[simp] theorem putFirst_block (e : HostEvent) (s : State) : (putFirst e s).block = s.block := rfl
@[simp] theorem putFirst_inbox (e : HostEvent) (s : State) : (putFirst e s).inbox = e :: s.inbox := rfl
@[simp] theorem putFirst_replies (e : HostEvent) (s : State) : (putFirst e s).replies = s.replies := rfl
@[simp] theorem applyReset_block (s : State) : (applyReset s).block = Block.reset := rfl
@[simp] theorem applyReset_inbox (s : State) : (applyReset s).inbox = s.inbox := rfl
@[simp] theorem applyReset_replies (s : State) : (applyReset s).replies = s.replies := rfl

end Sys2Proof.Machine
end

