-- ==== Sys2Proof/Laws/Driver.lean ====
section
/-! SUPPORT. The host's protocol (R111): how many transactions it takes (R114). -/

namespace Sys2Proof.Machine

/-- The setup takes 10 transactions (R114). -/
theorem protocolSetup_length (hdr : Bytes16) (len : Nat) : (protocolSetup hdr len).length = 10 := by
  simp [protocolSetup, pseudoLdhdr, pseudoSetlen, pseudoLocate]

/-- Each tile takes 9 transactions (R114). -/
theorem protocolTile_length (r : Bytes16) : (protocolTile r).length = 9 := by
  simp [protocolTile, pseudoLdrec, pseudoDecode]

/-- The protocol takes exactly 10 + 9 TILES transactions (R114). -/
theorem protocol_length (hdr : Bytes16) (len : Nat) (records : List Bytes16) :
    (protocol hdr len records).length = 10 + 9 * records.length := by
  rw [protocol, List.length_append, protocolSetup_length]
  congr 1
  induction records with
  | nil => rfl
  | cons r rs ih =>
    rw [List.flatMap_cons, List.length_append, protocolTile_length, ih, List.length_cons]
    omega

end Sys2Proof.Machine
end

