-- ==== Sys2Proof/Laws/Encode.lean ====
section
/-! SUPPORT. The bits of an encoded transaction, and the six ways a decoding succeeds (R53, R54). -/

namespace Sys2Proof

/-- The bits of a TXN: DATA, OFF, SZ, DIR, zeros (R53). -/
theorem packTxn_bit (dir : Bool) (size : BitVec 2) (off : Offset) (data : Word) (i : Nat) :
    (packTxn dir size off data).getLsbD i =
      if i < 32 then data.getLsbD i
      else if i - 32 < 8 then off.getLsbD (i - 32)
      else if i - 32 - 8 < 2 then size.getLsbD (i - 32 - 8)
      else if i - 32 - 8 - 2 < 1 then (BitVec.ofBool dir).getLsbD (i - 32 - 8 - 2) else false := by
  change BitVec.getLsbD (w := 21 + 1 + 2 + 8 + 32) ((0 : BitVec 21) ++ BitVec.ofBool dir ++ size ++ off ++ data) i = _
  simp only [BitVec.getLsbD_append]
  rw [show ∀ k, BitVec.getLsbD (0 : BitVec 21) k = false from fun k => by simp]

/-- Everything a successful TXN decoding can be (R54). -/
theorem decodeTxn_cases {t : Txn} {i : Instr} (h : decodeTxn t = .ok i) :
    txnRsv t = 0 ∧
      ((txnSize t = 0b00 ∧ txnDir t = true ∧ i = .wr8 (txnOff t) ((txnData t).extractLsb' 0 8)) ∨
       (txnSize t = 0b00 ∧ txnDir t = false ∧ i = .rd8 (txnOff t)) ∨
       (txnSize t = 0b10 ∧ txnDir t = true ∧ i = .wr32 (txnOff t) (txnData t)) ∨
       (txnSize t = 0b10 ∧ txnDir t = false ∧ i = .rd32 (txnOff t))) := by
  unfold decodeTxn at h
  repeat' split at h
  all_goals simp_all

/-- Everything a successful CMD decoding can be (R56). -/
theorem decodeCmd_cases {w : Word} {i : Instr} (h : decodeCmd w = .ok i) :
    (w = cmdDecodeWord ∧ i = .decode) ∨ (w = cmdLocateWord ∧ i = .locate) := by
  unfold decodeCmd at h
  repeat' split at h
  all_goals simp_all

end Sys2Proof
end

