-- ==== Sys2Proof/Laws/Region.lean ====
section
/-! SUPPORT. The region locator's values and bounds (R64 to R71), and what LOCATE does to the registers (R72). -/

namespace Sys2Proof.Machine

theorem prgUnits_le (hdr : Bytes16) : prgUnits hdr ≤ 255 := by
  have := (hdr[Config.hdrPrg]).isLt
  simp only [prgUnits]; omega

theorem chrUnits_le (hdr : Bytes16) : chrUnits hdr ≤ 255 := by
  have := (hdr[Config.hdrChr]).isLt
  simp only [chrUnits]; omega

/-- The offset's bounds (R71). -/
theorem regionOffset_bounds (hdr : Bytes16) : 16 ≤ regionOffset hdr ∧ regionOffset hdr ≤ 4178448 := by
  have := prgUnits_le hdr
  simp only [regionOffset, Config.headerBytes, Config.prgUnit, Config.trainerBytes]
  split <;> omega

/-- The length's bound (R71). -/
theorem regionLength_le (hdr : Bytes16) : regionLength hdr ≤ 2088960 := by
  have := chrUnits_le hdr
  simp only [regionLength, Config.chrUnit]; omega

/-- The tile count is exact (R67). -/
theorem regionTiles_eq (hdr : Bytes16) : regionTiles hdr = 512 * chrUnits hdr := by
  simp only [regionTiles, regionLength, Config.chrUnit, Config.tileBytes]; omega

/-- Exactly when and with what the locator succeeds (R69, R70). -/
theorem locateRegion_ok_iff {hdr : Bytes16} {imgLen : Word} {o l t : Nat} :
    locateRegion hdr imgLen = .ok o l t ↔
      16 ≤ imgLen.toNat ∧ chrUnits hdr ≠ 0 ∧ regionOffset hdr + regionLength hdr ≤ imgLen.toNat ∧
        o = regionOffset hdr ∧ l = regionLength hdr ∧ t = regionTiles hdr := by
  simp only [locateRegion, Config.headerBytes]
  split
  · simp; omega
  split
  · simp [*]
  split
  · simp; omega
  · simp only [LocateResult.ok.injEq]
    constructor
    · rintro ⟨rfl, rfl, rfl⟩
      exact ⟨by omega, ‹_›, by omega, rfl, rfl, rfl⟩
    · rintro ⟨-, -, -, rfl, rfl, rfl⟩
      exact ⟨rfl, rfl, rfl⟩

/-- The locator's only codes (R69). -/
theorem locateRegion_err {hdr : Bytes16} {imgLen : Word} {c : BitVec 4} (h : locateRegion hdr imgLen = .err c) :
    c = errTruncatedInput ∨ c = errMissingGraphicsRom := by
  unfold locateRegion at h
  split at h
  · exact .inl (LocateResult.err.inj h).symm
  split at h
  · exact .inr (LocateResult.err.inj h).symm
  split at h
  · exact .inl (LocateResult.err.inj h).symm
  · cases h

/-- LOCATE on success (R72). -/
theorem runLocate_ok {b : Block} {o l t : Nat} (h : locateRegion b.hdr b.imgLen = .ok o l t) :
    runLocate b = { b with
      offset := BitVec.ofNat 32 o, length := BitVec.ofNat 32 l, tiles := BitVec.ofNat 32 t, rv := true, err := 0 } := by
  simp [runLocate, h, setErr, errNone]

/-- LOCATE on failure (R72). -/
theorem runLocate_err {b : Block} {c : BitVec 4} (h : locateRegion b.hdr b.imgLen = .err c) :
    runLocate b = { b with offset := 0, length := 0, tiles := 0, rv := false, err := c } := by
  simp [runLocate, h, failLocate, setErr, clearRv]

/-- LOCATE reads its inputs and leaves them, GRID and GV as they were (R72). -/
theorem runLocate_frame (b : Block) :
    (runLocate b).record = b.record ∧ (runLocate b).hdr = b.hdr ∧ (runLocate b).imgLen = b.imgLen ∧
      (runLocate b).grid = b.grid ∧ (runLocate b).gv = b.gv := by
  cases h : locateRegion b.hdr b.imgLen with
  | ok o l t => simp [runLocate_ok h]
  | err c => simp [runLocate_err h]

end Sys2Proof.Machine
end

