-- ==== Sys2Proof/Laws/Tile.lean ====
section
/-! SUPPORT. Cells of grids and the unpacker (R22, R76, R78). -/

namespace Sys2Proof.Machine

/-- A cell of the grid decodeTile makes (R78). -/
@[simp] theorem decodeTile_cell (r : Bytes16) (y x : Fin 8) : (decodeTile r)[y][x] = tileCell r y x := by
  simp [decodeTile]

/-- Two grids with the same cells are one grid. -/
theorem grid_ext {g g' : Grid} (h : ∀ y x : Fin 8, g[y][x] = g'[y][x]) : g = g' := by
  apply Vector.ext
  intro y hy
  apply Vector.ext
  intro x hx
  exact h ⟨y, hy⟩ ⟨x, hx⟩

/-- Two records with the same bytes are one record. -/
theorem bytes16_ext {r r' : Bytes16} (h : ∀ i : Fin 16, r[i] = r'[i]) : r = r' := by
  apply Vector.ext
  intro i hi
  exact h ⟨i, hi⟩

/-- The number-indexed cell of the read views is the cell itself. -/
theorem gridCell_eq (g : Grid) (y x : Fin 8) : gridCell g y x = g[y][x] := by
  simp [gridCell, Vector.getD]

/-- The bits of a cell (R76). -/
theorem tileCell_bit (r : Bytes16) (y x : Fin 8) (i : Nat) :
    (tileCell r y x).getLsbD i =
      if i < 1 then (BitVec.ofBool (recordBit r ⟨y, by omega⟩ x)).getLsbD i
      else (BitVec.ofBool (recordBit r ⟨y + 8, by omega⟩ x)).getLsbD (i - 1) := by
  change BitVec.getLsbD (w := 1 + 1)
    (BitVec.ofBool (recordBit r ⟨y + 8, by omega⟩ x) ++ BitVec.ofBool (recordBit r ⟨y, by omega⟩ x)) i = _
  simp only [BitVec.getLsbD_append]

/-- The low bit of a cell is plane A's bit (R74). -/
theorem tileCell_low (r : Bytes16) (y x : Fin 8) :
    (tileCell r y x).getLsbD 0 = recordBit r ⟨y, by omega⟩ x := by
  rw [tileCell_bit]; simp

/-- The high bit of a cell is plane B's bit (R75). -/
theorem tileCell_high (r : Bytes16) (y x : Fin 8) :
    (tileCell r y x).getLsbD 1 = recordBit r ⟨y + 8, by omega⟩ x := by
  rw [tileCell_bit]; simp

end Sys2Proof.Machine
end

