-- ==== Sys2Proof/Laws/Window.lean ====
section
/-! SUPPORT. The register window: when an access passes the checks of R84, bytes of words, and the byte view after a byte
write (R87, R90). -/

namespace Sys2Proof.Machine

/-! ## Bytes of words -/

theorem getByte_setByte_same (w : Word) (k : Fin 4) (v : Byte) : getByte (setByte w k v) k = v := by
  fin_cases k <;> (ext i hi; simp [getByte, setByte]; interval_cases i <;> simp)

theorem getByte_setByte_other (w : Word) (j k : Fin 4) (v : Byte) (h : j ≠ k) :
    getByte (setByte w k v) j = getByte w j := by
  fin_cases k <;> fin_cases j <;> first
    | exact absurd rfl h
    | (ext i hi; simp [getByte, setByte]; interval_cases i <;> simp)

/-- The bits of a little-endian word: byte 0 in bits 7:0, byte 3 in bits 31:24 (R40). -/
theorem wordOfBytes_bit (b3 b2 b1 b0 : Byte) (i : Nat) :
    (wordOfBytes b3 b2 b1 b0).getLsbD i =
      if i < 8 then b0.getLsbD i else if i - 8 < 8 then b1.getLsbD (i - 8)
      else if i - 8 - 8 < 8 then b2.getLsbD (i - 8 - 8) else b3.getLsbD (i - 8 - 8 - 8) := by
  change BitVec.getLsbD (w := 8 + 8 + 8 + 8) (b3 ++ b2 ++ b1 ++ b0) i = _
  simp only [BitVec.getLsbD_append]

/-- A word is the little-endian word of its four bytes (R40). -/
theorem wordOfBytes_getByte (w : Word) :
    wordOfBytes (getByte w 3) (getByte w 2) (getByte w 1) (getByte w 0) = w := by
  apply BitVec.eq_of_getLsbD_eq
  intro i hi
  rw [wordOfBytes_bit]
  interval_cases i <;> simp [getByte]

/-- Writing all four bytes of a word replaces it (R41, R89). -/
theorem setByte_all (w v : Word) :
    setByte (setByte (setByte (setByte w 0 (getByte v 0)) 1 (getByte v 1)) 2 (getByte v 2)) 3 (getByte v 3) = v := by
  ext i hi
  simp [getByte, setByte]
  interval_cases i <;> simp

/-! ## The access checks -/

/-- A read of one byte passes exactly at the mapped offsets outside CMD (R84, R85). -/
theorem busCheck_read_one (off : Offset) :
    busCheck .read .one off = none ↔
      off.toNat < 0x24 ∨ (0x28 ≤ off.toNat ∧ off.toNat < 0x38) ∨ (0x40 ≤ off.toNat ∧ off.toNat < 0x50) ∨
        (0x80 ≤ off.toNat ∧ off.toNat < 0xC0) := by
  revert off; decide

/-- A read of one word passes exactly at the aligned mapped offsets (R84, R86). -/
theorem busCheck_read_four (off : Offset) :
    busCheck .read .four off = none ↔
      off.toNat % 4 = 0 ∧ (off.toNat < 0x38 ∨ (0x40 ≤ off.toNat ∧ off.toNat < 0x50) ∨
        (0x80 ≤ off.toNat ∧ off.toNat < 0xC0)) := by
  revert off; decide

/-- A write of one byte passes exactly at REC, HDR and IMGLEN (R84, R88). -/
theorem busCheck_write_one (off : Offset) :
    busCheck .write .one off = none ↔ off.toNat < 0x24 := by
  revert off; decide

/-- A write of one word passes exactly at the aligned offsets of REC, HDR, IMGLEN and CMD (R84, R89). -/
theorem busCheck_write_four (off : Offset) :
    busCheck .write .four off = none ↔ off.toNat % 4 = 0 ∧ off.toNat < 0x28 := by
  revert off; decide

/-- An access that passes the checks is performed. -/
theorem access_ok {dir : Dir} {width : Width} {off : Offset} (h : busCheck dir width off = none)
    (perform : State → State) (s : State) : access dir width off perform s = .next (perform s) := by
  simp [access, h]

/-- An access that a check refuses answers a bus error. -/
theorem access_error {dir : Dir} {width : Width} {off : Offset} {e : BusError} (h : busCheck dir width off = some e)
    (perform : State → State) (s : State) :
    access dir width off perform s = .next (respond (.busError e) s) := by
  simp [access, h, raiseBusError]

/-- Everything an access can do: answer a bus error and nothing else, or perform. -/
theorem access_cases {dir : Dir} {width : Width} {off : Offset} {perform : State → State} {s t : State}
    (h : access dir width off perform s = .next t) :
    (∃ e, busCheck dir width off = some e ∧ t = respond (.busError e) s) ∨
      (busCheck dir width off = none ∧ t = perform s) := by
  cases hc : busCheck dir width off with
  | none => exact .inr ⟨rfl, by simpa [access_ok hc] using h.symm⟩
  | some e => exact .inl ⟨e, rfl, by simpa [access_error hc] using h.symm⟩

/-! ## The byte write (R90) -/

theorem writeByte_rec {o : Nat} (h : o < 0x10) (v : Byte) (b : Block) :
    writeByte o v b = { b with record := b.record.set o v, gv := false } := by
  simp [writeByte, h, clearGv]

theorem writeByte_hdr {o : Nat} (h₁ : 0x10 ≤ o) (h₂ : o < 0x20) (v : Byte) (b : Block) :
    writeByte o v b = { b with hdr := b.hdr.set (o - 0x10) v, rv := false } := by
  have : ¬ o < 0x10 := by omega
  simp [writeByte, this, h₂, clearRv]

theorem writeByte_imgLen {o : Nat} (h₁ : 0x20 ≤ o) (h₂ : o < 0x24) (v : Byte) (b : Block) :
    writeByte o v b = { b with imgLen := setByte b.imgLen (o - 0x20) v, rv := false } := by
  have h₃ : ¬ o < 0x10 := by omega
  have h₄ : ¬ o < 0x20 := by omega
  simp [writeByte, h₃, h₄, h₂, clearRv]

theorem writeByte_beyond {o : Nat} (h : 0x24 ≤ o) (v : Byte) (b : Block) : writeByte o v b = b := by
  have h₃ : ¬ o < 0x10 := by omega
  have h₄ : ¬ o < 0x20 := by omega
  have h₅ : ¬ o < 0x24 := by omega
  simp [writeByte, h₃, h₄, h₅]

/-- Everything a byte write can do to the registers. -/
theorem writeByte_cases (o : Nat) (v : Byte) (b : Block) :
    (∃ h : o < 0x10, writeByte o v b = { b with record := b.record.set o v, gv := false }) ∨
    (∃ h : 0x10 ≤ o ∧ o < 0x20, writeByte o v b = { b with hdr := b.hdr.set (o - 0x10) v, rv := false }) ∨
    ((0x20 ≤ o ∧ o < 0x24) ∧ writeByte o v b = { b with imgLen := setByte b.imgLen (o - 0x20) v, rv := false }) ∨
    (0x24 ≤ o ∧ writeByte o v b = b) := by
  by_cases h₁ : o < 0x10
  · exact .inl ⟨h₁, writeByte_rec h₁ v b⟩
  by_cases h₂ : o < 0x20
  · exact .inr (.inl ⟨⟨by omega, h₂⟩, writeByte_hdr (by omega) h₂ v b⟩)
  by_cases h₃ : o < 0x24
  · exact .inr (.inr (.inl ⟨⟨by omega, h₃⟩, writeByte_imgLen (by omega) h₃ v b⟩))
  · exact .inr (.inr (.inr ⟨by omega, writeByte_beyond (by omega) v b⟩))

/-- A byte write touches only the input registers and the two validity bits (R90). -/
theorem writeByte_outputs (o : Nat) (v : Byte) (b : Block) :
    (writeByte o v b).grid = b.grid ∧ (writeByte o v b).offset = b.offset ∧ (writeByte o v b).length = b.length ∧
      (writeByte o v b).tiles = b.tiles ∧ (writeByte o v b).err = b.err := by
  obtain ⟨_, h⟩ | ⟨_, h⟩ | ⟨_, h⟩ | ⟨_, h⟩ := writeByte_cases o v b <;> simp [h]

/-- What a byte write stores reads back (R87, R90). -/
theorem byteView_writeByte_same {o : Nat} (h : o < 0x24) (v : Byte) (b : Block) :
    byteView (writeByte o v b) o = v := by
  obtain ⟨_, h'⟩ | ⟨⟨_, _⟩, h'⟩ | ⟨_, h'⟩ | ⟨_, h'⟩ := writeByte_cases o v b <;> rw [h']
  · simp [byteView, *]
  · rw [byteView, dif_neg (by omega), dif_pos (by omega)]
    simp
  · rw [byteView, dif_neg (by omega), dif_neg (by omega), if_pos (by omega)]
    exact getByte_setByte_same b.imgLen ⟨o - 0x20, by omega⟩ v
  · omega

/-! ## The STATUS word (R28) -/

/-- The bits of the STATUS word: GV, RV, six zeros, ERR, zeros. -/
theorem statusWord_bit (b : Block) (i : Nat) :
    (statusWord b).getLsbD i =
      if i < 1 then (BitVec.ofBool b.gv).getLsbD i
      else if i - 1 < 1 then (BitVec.ofBool b.rv).getLsbD (i - 1)
      else if i - 1 - 1 < 6 then false
      else if i - 1 - 1 - 6 < 4 then b.err.getLsbD (i - 1 - 1 - 6) else false := by
  change BitVec.getLsbD (w := 20 + 4 + 6 + 1 + 1)
    ((0 : BitVec 20) ++ b.err ++ (0 : BitVec 6) ++ BitVec.ofBool b.rv ++ BitVec.ofBool b.gv) i = _
  simp only [BitVec.getLsbD_append]
  rw [show ∀ k, BitVec.getLsbD (0 : BitVec 20) k = false from fun k => by simp,
    show ∀ k, BitVec.getLsbD (0 : BitVec 6) k = false from fun k => by simp]

end Sys2Proof.Machine
end

