-- ==== Sys2Proof/Laws/Exec.lean ====
section
/-! SUPPORT. Everything a transaction or a step can do, said once: later proofs cite these instead of unfolding `exec` or
`step`. -/

namespace Sys2Proof.Machine

/-- The change a transaction makes to the registers when it passes its access checks. -/
def effectOf : Instr → Block → Block
  | .rd8 _ => id
  | .rd32 _ => id
  | .wr8 off data => writeByte off.toNat data
  | .wr32 off data => if off = Config.symCmd then runCommandWord data else writeWord off.toNat data
  | .decode => runDecode
  | .locate => runLocate

/-- The only six things a transaction can do to the registers. -/
theorem effectOf_cases (i : Instr) (b : Block) :
    effectOf i b = b ∨ effectOf i b = runDecode b ∨ effectOf i b = runLocate b ∨ effectOf i b = illegalCommand b ∨
      (∃ o v, effectOf i b = writeByte o v b) ∨ ∃ o w, effectOf i b = writeWord o w b := by
  cases i with
  | rd8 off => exact .inl rfl
  | rd32 off => exact .inl rfl
  | wr8 off data => exact .inr (.inr (.inr (.inr (.inl ⟨_, _, rfl⟩))))
  | wr32 off data =>
    simp only [effectOf]
    split
    · unfold runCommandWord
      split
      · simp
      split <;> simp
    · exact .inr (.inr (.inr (.inr (.inr ⟨_, _, rfl⟩))))
  | decode => exact .inr (.inl rfl)
  | locate => exact .inr (.inr (.inl rfl))

/-- What a transaction answers when it passes its access checks. -/
def answerOf : Instr → Block → Reply
  | .rd8 off, b => .byte (byteView b off.toNat)
  | .rd32 off, b => .word (wordView b off.toNat)
  | .wr8 _ _, _ => .done
  | .wr32 _ _, _ => .done
  | .decode, _ => .done
  | .locate, _ => .done

/-- The access checks of a transaction; a command on its own has none. -/
def checkOf : Instr → Option BusError
  | .rd8 off => busCheck .read .one off
  | .rd32 off => busCheck .read .four off
  | .wr8 off _ => busCheck .write .one off
  | .wr32 off _ => busCheck .write .four off
  | .decode => none
  | .locate => none

/-- A transaction that passes its checks has its effect and its answer. -/
theorem exec_ok {i : Instr} (h : checkOf i = none) (s : State) :
    exec i s = .next (respond (answerOf i s.block) (mapBlock (effectOf i) s)) := by
  cases i with
  | rd8 off =>
    simp only [checkOf] at h
    simp only [exec, execRd8, access_ok h]
    rfl
  | rd32 off =>
    simp only [checkOf] at h
    simp only [exec, execRd32, access_ok h]
    rfl
  | wr8 off data =>
    simp only [checkOf] at h
    simp only [exec, execWr8, access_ok h]
    rfl
  | wr32 off data =>
    simp only [checkOf] at h
    simp only [exec, execWr32, access_ok h]
    rfl
  | decode => rfl
  | locate => rfl

/-- A transaction that fails a check answers a bus error and changes no register. -/
theorem exec_error {i : Instr} {e : BusError} (h : checkOf i = some e) (s : State) :
    exec i s = .next (respond (.busError e) s) := by
  cases i with
  | rd8 off =>
    simp only [checkOf] at h
    simp only [exec, execRd8, access_error h]
  | rd32 off =>
    simp only [checkOf] at h
    simp only [exec, execRd32, access_error h]
  | wr8 off data =>
    simp only [checkOf] at h
    simp only [exec, execWr8, access_error h]
  | wr32 off data =>
    simp only [checkOf] at h
    simp only [exec, execWr32, access_error h]
  | decode => cases h
  | locate => cases h

/-- Everything a transaction can do. -/
theorem exec_cases {i : Instr} {s t : State} (h : exec i s = .next t) :
    (∃ e, checkOf i = some e ∧ t = respond (.busError e) s) ∨
      (checkOf i = none ∧ t = respond (answerOf i s.block) (mapBlock (effectOf i) s)) := by
  cases hc : checkOf i with
  | none => exact .inr ⟨rfl, by simpa [exec_ok hc] using h.symm⟩
  | some e => exact .inl ⟨e, rfl, by simpa [exec_error hc] using h.symm⟩

/-- Everything a step can do: take a reset, refuse a transaction that does not decode, or run the decoded one. -/
theorem step_cases {s t : State} (h : step s = .next t) :
    (∃ q, s.inbox = .reset :: q ∧ t = applyReset { s with inbox := q }) ∨
    (∃ w q e, s.inbox = .txn w :: q ∧ decodeTxn w = .error e ∧
      t = respond (.busError (busErrorOfDecode e)) { s with inbox := q }) ∨
    (∃ w q i, s.inbox = .txn w :: q ∧ errReserved s.block = false ∧ decodeTxn w = .ok i ∧
      exec i { s with inbox := q } = .next t) := by
  unfold step at h
  cases hq : s.inbox with
  | nil => simp [fetchEvent, hq] at h
  | cons e q =>
    cases e with
    | reset =>
      simp only [fetchEvent, hq] at h
      exact .inl ⟨q, rfl, by simpa using h.symm⟩
    | txn w =>
      simp only [fetchEvent, hq] at h
      split at h
      · cases h
      · rename_i he
        cases hd : decodeTxn w with
        | error e =>
          simp only [hd, raiseBusError] at h
          exact .inr (.inl ⟨w, q, e, rfl, hd, by simpa using h.symm⟩)
        | ok i =>
          simp only [hd] at h
          exact .inr (.inr ⟨w, q, i, rfl, by simpa using he, hd, h⟩)

end Sys2Proof.Machine
end

