-- ==== Sys2Proof/Laws/PerInstr.lean ====
section
/-! SUPPORT. Statements made per instruction. RowMatch: an instruction's encoding agrees with its row of
spec/opcode_table.json, by the row's mask and match. -/

namespace Sys2Proof.Laws.RowMatch

/-- The bits of an item, as the table numbers them. -/
def bits : Item → BitVec 64
  | .txn t => t
  | .cmd w => w.setWidth 64

/-- The mask and match of the instruction's row (spec/opcode_table.json). -/
def row : Instr → BitVec 64 × BitVec 64
  | .rd8 _ => (0xFFFFFF0000000000, 0x0000000000000000)
  | .rd32 _ => (0xFFFFFF0000000000, 0x0000020000000000)
  | .wr8 _ _ => (0xFFFFFF0000000000, 0x0000040000000000)
  | .wr32 _ _ => (0xFFFFFF0000000000, 0x0000060000000000)
  | .decode => (0xFFFFFFFF, 0x00000001)
  | .locate => (0xFFFFFFFF, 0x00000002)

/-- The encoding of the instruction, under its row's mask, is its row's match. -/
def Statement (i : Instr) : Prop := bits (encode i) &&& (row i).1 = (row i).2

/-- The upper 24 bits of a TXN are RSV, DIR and SZ, whatever OFF and DATA hold (R53). -/
theorem packTxn_row (dir : Bool) (size : BitVec 2) (off : Offset) (data : Word) :
    packTxn dir size off data &&& 0xFFFFFF0000000000 = packTxn dir size 0 0 := by
  apply BitVec.eq_of_getLsbD_eq
  intro i hi
  rw [BitVec.getLsbD_and, packTxn_bit, packTxn_bit]
  interval_cases i <;> simp

theorem rd8 (off : Offset) : Statement (.rd8 off) := packTxn_row _ _ _ _

theorem rd32 (off : Offset) : Statement (.rd32 off) := packTxn_row _ _ _ _

theorem wr8 (off : Offset) (data : Byte) : Statement (.wr8 off data) := packTxn_row _ _ _ _

theorem wr32 (off : Offset) (data : Word) : Statement (.wr32 off data) := packTxn_row _ _ _ _

theorem decode : Statement .decode := by unfold Statement; decide

theorem locate : Statement .locate := by unfold Statement; decide

end Sys2Proof.Laws.RowMatch
end

