-- ==== Sys2Proof/Tests/Slice0.lean ====
section
/-! SUPPORT. The model's own tests. Expected values are those of spec/95_test_vectors.md (the row is named with each test)
or are worked out from the rule cited. Witnesses show states and operands that meet the hypotheses of the statements. -/

namespace Sys2Proof.Tests

open Sys2Proof.Machine Sys2Proof.Statements

/-! ## Helpers -/

/-- What a test reads of an outcome: the registers and the newest answer. -/
def outcome (o : Host.Outcome State Fault Refusal) : Option (Block × Option Reply) :=
  match o with
  | .next t => some (t.block, t.replies.head?)
  | .fault _ => none
  | .refused _ => none

/-- The newest answer of an outcome. -/
def reply (o : Host.Outcome State Fault Refusal) : Option Reply := (outcome o).bind (·.2)

/-- The registers of an outcome. -/
def block (o : Host.Outcome State Fault Refusal) : Option Block := (outcome o).map (·.1)

/-- A machine with given registers and nothing at its port. -/
def at' (b : Block) : State := { block := b, inbox := [], replies := [] }

/-- A header with the three bytes LOCATE reads. -/
def hdr3 (prg chr f6 : Byte) : Bytes16 := (((Vector.replicate 16 0).set 4 prg).set 5 chr).set 6 f6

/-- Registers ready for a LOCATE. -/
def locating (prg chr f6 : Byte) (len : Word) : Block :=
  { Block.reset with hdr := hdr3 prg chr f6, imgLen := len }

/-- Registers ready for the DECODE of V6 in 95_test_vectors.md. -/
def v6 : Block :=
  { Block.reset with record := ((Vector.replicate 16 0).set 0 0x0F).set 8 0x33 }

/-! ## Well-formedness: an ill-formed term for each check (R86, R89) -/

theorem test_wf_refuses_misaligned_rd32 : Instr.wellFormed (.rd32 0x2A) = false := by decide
theorem test_wf_refuses_misaligned_wr32 : Instr.wellFormed (.wr32 0x3A 0) = false := by decide
theorem test_wf_accepts_aligned : Instr.wellFormed (.wr32 0xFC 0) = true ∧ Instr.wellFormed (.rd8 0xFF) = true := by
  decide

/-! ## Decoding, by words written out from the fields of R53 and R56: RSV, DIR, SZ, OFF, DATA -/

theorem test_decode_rd8 :
    decodeTxn 0b0000000000000000000000000010000100000000000000000000000000000000 = .ok (.rd8 0x21) := by rfl
theorem test_decode_rd32 :
    decodeTxn 0b0000000000000000000000100010110000000000000000000000000000000000 = .ok (.rd32 0x2C) := by rfl
theorem test_decode_wr8 :
    decodeTxn 0b0000000000000000000001000001010100010010001101000101011000000101 = .ok (.wr8 0x15 0x05) := by rfl
theorem test_decode_wr32 :
    decodeTxn 0b0000000000000000000001100000000000000100000000110000001000000001 = .ok (.wr32 0x00 0x04030201) := by rfl
theorem test_decode_decode : decodeCmd 0b00000000000000000000000000000001 = .ok .decode := by rfl
theorem test_decode_locate : decodeCmd 0b00000000000000000000000000000010 = .ok .locate := by rfl
/-- BE1 to BE4: each reserved field is refused by name. -/
theorem test_decode_reserved :
    decodeTxn 0x0000010000000000 = .error .reservedSize ∧ decodeTxn 0x0000030000000000 = .error .reservedSize ∧
    decodeTxn 0x0000080000000000 = .error .reservedField ∧
    decodeTxn 0x8000062400000001 = .error .reservedField := by
  refine ⟨?_, ?_, ?_, ?_⟩ <;> rfl
/-- CW3, CW6, CW7. -/
theorem test_decode_illegal_command :
    decodeCmd 0 = .error .illegalCommand ∧ decodeCmd 0x101 = .error .illegalCommand ∧
    decodeCmd 0x80000002 = .error .illegalCommand := by
  refine ⟨?_, ?_, ?_⟩ <;> rfl
theorem test_decode_table_words :
    decodeTableWord 64 0x0000020000000000 = some (.rd32 0) ∧ decodeTableWord 32 2 = some .locate ∧
    decodeTableWord 32 3 = none := by
  refine ⟨?_, ?_, ?_⟩ <;> rfl

/-! ## Instructions -/

/-- BT9: byte 1 of IMGLEN = 0x2010 reads 0x20. -/
theorem test_rd8_imglen :
    reply (exec (.rd8 0x21) (at' { Block.reset with imgLen := 0x2010 })) = some (.byte 0x20) := by decide
/-- BT11 and BE13: ERR is the low nibble of STATUS byte 1, and CMD has no 1-byte read. -/
theorem test_rd8_status_and_cmd :
    reply (exec (.rd8 0x29) (at' { Block.reset with err := 3, rv := true, gv := true })) = some (.byte 0x03) ∧
    reply (exec (.rd8 0x24) State.reset) = some (.busError .width) := by decide
/-- V6: the packed words of its grid. -/
theorem test_rd32_gridp :
    reply (exec (.rd32 0x40) (at' (runDecode v6))) = some (.word 0x00000A5F) := by decide
/-- BE6, BE7, BE9: the order of the checks, and BT3: CMD reads 0. -/
theorem test_rd32_checks :
    reply (exec (.rd32 0x2A) State.reset) = some (.busError .misaligned) ∧
    reply (exec (.wr32 0x3A 0) State.reset) = some (.busError .misaligned) ∧
    reply (exec (.rd32 0x3C) State.reset) = some (.busError .unmapped) ∧
    reply (exec (.rd32 0x24) State.reset) = some (.word 0) := by decide
/-- BT10: a WR8 to IMGLEN+1 changes bits 15:8 only. -/
theorem test_wr8_imglen :
    block (exec (.wr8 0x21 0) (at' { Block.reset with imgLen := 0x2010, rv := true })) =
      some { Block.reset with imgLen := 0x10 } := by decide
/-- V17: a write of the value already held clears GV and keeps GRID. -/
theorem test_wr8_same_value_clears_gv :
    block (exec (.wr8 3 0) (at' (runDecode v6))) = some { runDecode v6 with gv := false } := by decide
/-- BT4: little-endian order of a word write. -/
theorem test_wr32_record :
    (block (exec (.wr32 0 0x04030201) State.reset)).map (·.record) =
      some #v[1, 2, 3, 4, 0, 0, 0, 0, 0, 0, 0, 0, 0, 0, 0, 0] := by decide
/-- CW6: bits 31:8 of a CMD word are examined. -/
theorem test_wr32_illegal_command :
    block (exec (.wr32 0x24 0x101) (at' { Block.reset with rv := true, gv := true })) =
      some { Block.reset with rv := true, gv := true, err := 3 } := by decide
/-- V6: row 0 is [3,3,1,1,2,2,0,0]. -/
theorem test_decode_v6_row :
    (block (exec .decode (at' v6))).map (fun b => b.grid[0]) = some #v[3, 3, 1, 1, 2, 2, 0, 0] := by decide
/-- V14, rows 0 and 7 (the shift direction of R77). -/
theorem test_decode_v14_rows :
    let g := decodeTile #v[0xA5, 0x5A, 0xF0, 0x0F, 0xCC, 0x33, 0x01, 0xFE, 0x0F, 0xF0, 0xAA, 0x55, 0x81, 0x7E, 0x00, 0xFF]
    g[0] = #v[3, 2, 3, 2, 0, 1, 0, 1] ∧ g[7] = #v[2, 3, 3, 3, 3, 3, 3, 3] := by decide
/-- LC4: a region behind a trainer. -/
theorem test_locate_lc4 :
    block (exec .locate (at' (locating 2 1 0x04 41488))) =
      some { locating 2 1 0x04 41488 with offset := 33296, length := 8192, tiles := 512, rv := true } := by decide
/-- LC8, LC9, LC11, LC12: the maxima, one byte short, and the order of the checks. -/
theorem test_locate_region :
    locateRegion (hdr3 255 255 0x04) 6267408 = .ok 4178448 2088960 130560 ∧
    locateRegion (hdr3 255 255 0x04) 6267407 = .err 2 ∧ locateRegion (hdr3 0 0 0) 100000 = .err 1 ∧
    locateRegion (hdr3 0 0 0) 15 = .err 2 ∧ locateRegion (hdr3 2 1 0xFB) 40976 = .ok 32784 8192 512 := by decide

/-! ## The step, the port and reset -/

/-- BT7: the placed word is the next one served. -/
theorem test_step_placed_wr8 :
    (block (step (State.reset.withFetchWord 64 0x0000041512345605))).map (·.hdr[5]) = some 0x05 := by decide
/-- V16: a DECODE right after reset. -/
theorem test_step_placed_decode :
    block (step (State.reset.withFetchWord 32 1)) = some { Block.reset with gv := true } := by decide
/-- BE4: a reserved TXN that would carry a DECODE runs no command. -/
theorem test_step_reserved :
    outcome (step (issue (.txn 0x8000062400000001) State.reset)) =
      some (Block.reset, some (.busError .reserved)) := by decide
/-- R108: a reset discards every earlier write. -/
theorem test_step_reset :
    block (step (issue .reset (at' (runDecode v6)))) = some Block.reset := by decide
/-- R95: the host cannot tell the reasons apart. -/
theorem test_reason_not_visible : seenByHost (.busError .width) = seenByHost (.busError .unmapped) := by decide
/-- R83, V15: the inverse of the V6 grid. -/
theorem test_record_of_v6_grid : recordOfGrid (decodeTile v6.record) = v6.record := by decide
/-- R60, P1 lines 1 to 4: the words of `ldrec`. -/
theorem test_ldrec_p1 :
    pseudoLdrec #v[0x3C, 0x42, 0x81, 0x81, 0x81, 0x81, 0x42, 0x3C, 0x00, 0x3C, 0x7E, 0x7E, 0x7E, 0x7E, 0x3C, 0x00] =
      [.wr32 0 0x8181423C, .wr32 4 0x3C428181, .wr32 8 0x7E7E3C00, .wr32 12 0x003C7E7E] := by decide

/-! ## Witnesses for the hypotheses of the statements -/

/-- A machine whose next event is this. -/
def offered (e : HostEvent) : State := issue e State.reset

/-- Two instances, at 0 and at 512, each with a DECODE to serve. -/
def pair : Platform :=
  [{ base := 0, machine := offered (.txn 0x0000062400000001) },
   { base := 512, machine := offered (.txn 0x0000062400000001) }]

theorem witness_reset_event : (offered .reset).inbox = .reset :: [] ∧ TakesReset (offered .reset) :=
  ⟨rfl, [], rfl⟩
/-- StepKeepsValidityBits, with both bits set before the step, and StepKeepsResultRegisters. -/
theorem witness_invariants :
    let b := runLocate (runDecode (locating 2 1 0x04 41488))
    b.gv = true ∧ b.rv = true ∧ ValidityBits b ∧ ErrLegal b ∧ RegionRegisters b ∧
      block (step { at' b with inbox := [.txn 0x0000022800000000] }) = some b := by decide
theorem witness_failed_locate_cleared :
    let b := runLocate (locating 0 0 0 100000)
    b.err = errMissingGraphicsRom ∧ FailedLocateCleared b := by
  refine ⟨by decide, fun _ => by decide⟩
theorem witness_used_bits :
    decodeTxn 0x0000002112345678 = .ok (.rd8 0x21) ∧ decodeTxn 0x0000022012345678 = .ok (.rd32 0x20) ∧
    decodeTxn 0x0000041512345605 = .ok (.wr8 0x15 0x05) ∧ decodeTxn 0x0000062000002010 = .ok (.wr32 0x20 0x2010) ∧
    decodeCmd 1 = .ok .decode := by
  refine ⟨?_, ?_, ?_, ?_, ?_⟩ <;> rfl
/-- TxnDecoding: each clause has a descriptor, at the edge of its field. -/
theorem witness_txn_decoding :
    (0x0000080000000000 : Txn).extractLsb 63 43 ≠ 0 ∧ (0x0000010000000000 : Txn).getLsbD 40 = true ∧
    (0x000006FF00000000 : Txn).extractLsb 63 43 = 0 ∧ (0x000006FF00000000 : Txn).getLsbD 40 = false := by decide
theorem witness_step_runs :
    (offered (.txn 0x0000022800000000)).inbox = .txn 0x0000022800000000 :: [] ∧
    ErrLegal (offered (.txn 0x0000022800000000)).block ∧ decodeTxn 0x0000022800000000 = .ok (.rd32 0x28) :=
  ⟨rfl, by decide, rfl⟩
theorem witness_placed : ErrLegal State.reset.block ∧ decodeTableWord 32 1 = some .decode ∧
    decodeTableWord 64 0x0000022800000000 = some (.rd32 0x28) := ⟨by decide, rfl, rfl⟩
theorem witness_reserved_step :
    (offered (.txn 0x0000080000000000)).inbox = .txn 0x0000080000000000 :: [] ∧
    ErrLegal (offered (.txn 0x0000080000000000)).block ∧ (0x0000080000000000 : Txn).extractLsb 63 43 ≠ 0 :=
  ⟨rfl, by decide, by decide⟩
theorem witness_step_stops :
    State.reset.inbox = [] ∧ ¬ ErrLegal { Block.reset with err := 4 } ∧ ErrLegal { Block.reset with err := 3 } :=
  ⟨rfl, by decide, by decide⟩
/-- AccessChecksInOrder: each clause at the ends of its ranges, with the other ends' neighbours in another clause. -/
theorem witness_access_checks :
    (∀ o ∈ [0x38, 0x3C, 0x3F, 0x50, 0x7C, 0x7F, 0xC0, 0xFC, 0xFF], Unmapped o ∧ ¬ ReadOnly o) ∧
    (∀ o ∈ [0x28, 0x34, 0x37, 0x40, 0x4C, 0x4F, 0x80, 0xBC, 0xBF], ReadOnly o ∧ ¬ Unmapped o) ∧
    (∀ o ∈ [0x24, 0x27], ¬ Unmapped o ∧ ¬ ReadOnly o) ∧ (0x3A % 4 ≠ 0) := by decide
/-- Readable, at the ends of its ranges, aligned and not (Rd8, Rd32, word and byte reads). -/
theorem witness_readable :
    (∀ o ∈ [0x00, 0x23, 0x28, 0x37, 0x40, 0x4F, 0x80, 0xBF], Readable o) ∧
    (∀ o ∈ [0x00, 0x20, 0x28, 0x34, 0x40, 0x4C, 0x80, 0xBC], o % 4 = 0 ∧ Readable o) ∧
    (∀ o ∈ [0x24, 0x27, 0x38, 0x3F, 0x50, 0x7F, 0xC0, 0xFF], ¬ Readable o) := by decide
/-- ReadsAreIdempotentWithoutEffect: the same read twice, of each kind. -/
theorem witness_reads :
    (∃ t u, exec (.rd8 0) State.reset = .next t ∧ exec (.rd8 0) t = .next u) ∧
    ∃ t u, exec (.rd32 0x24) State.reset = .next t ∧ exec (.rd32 0x24) t = .next u :=
  ⟨⟨_, _, rfl, rfl⟩, _, _, rfl, rfl⟩
/-- The write statements: a byte and a word at the ends of the writable ranges. -/
theorem witness_writes :
    (∃ t, exec (.wr8 0x23 7) State.reset = .next t) ∧ (∃ t, exec (.wr8 0x0F 7) State.reset = .next t) ∧
    (∃ t, exec (.wr32 0x20 7) State.reset = .next t) ∧ (0x23 : Offset).toNat < 0x24 ∧
    (0x20 : Offset).toNat % 4 = 0 ∧ (0x20 : Offset) ≠ 0x24 :=
  ⟨⟨_, rfl⟩, ⟨_, rfl⟩, ⟨_, rfl⟩, by decide, by decide, by decide⟩
theorem witness_record_order :
    ∃ t t' u u', (0 : Offset) ≠ 15 ∧ exec (.wr8 0 1) State.reset = .next t ∧ exec (.wr8 15 2) t = .next u ∧
      exec (.wr8 15 2) State.reset = .next t' ∧ exec (.wr8 0 1) t' = .next u' :=
  ⟨_, _, _, _, by decide, rfl, rfl, rfl, rfl⟩
theorem witness_illegal_word : (3 : Word) ≠ 1 ∧ (3 : Word) ≠ 2 ∧ ∃ t, exec (.wr32 0x24 3) State.reset = .next t :=
  ⟨by decide, by decide, _, rfl⟩
theorem witness_commands :
    (∃ t u, exec .decode State.reset = .next t ∧ exec .decode t = .next u) ∧
    (∃ t u, exec .locate State.reset = .next t ∧ exec .locate t = .next u) ∧
    (∃ t, exec (.wr32 0x24 1) State.reset = .next t) ∧ ∃ t, exec (.wr32 0x24 2) State.reset = .next t :=
  ⟨⟨_, _, rfl, rfl⟩, ⟨_, _, rfl, rfl⟩, ⟨_, rfl⟩, _, rfl⟩
/-- DecodeCommandResult and LocateCommandResult: the command by its CMD row and by the WR32 that carries it. -/
theorem witness_command_forms :
    (∃ t, exec .decode (at' v6) = .next t ∧ exec (.wr32 0x24 0x00000001) (at' v6) = .next t) ∧
    ∃ t, exec .locate (at' (locating 2 1 4 41488)) = .next t ∧
      exec (.wr32 0x24 0x00000002) (at' (locating 2 1 4 41488)) = .next t :=
  ⟨⟨_, rfl, rfl⟩, _, rfl, rfl⟩
/-- LocateCommandResult and the located statements: a success, and each of the two failures. -/
theorem witness_locate_results :
    locateRegion (locating 2 1 4 41488).hdr (locating 2 1 4 41488).imgLen = .ok 33296 8192 512 ∧
    locateRegion (locating 2 1 4 40976).hdr (locating 2 1 4 40976).imgLen = .err 2 ∧
    locateRegion (locating 0 0 4 16).hdr (locating 0 0 4 16).imgLen = .err 1 := by decide
/-- LocateRegionByHeaderBytes: each clause at its boundary (15, 16, one byte short, exact). -/
theorem witness_locate_clauses :
    (15 : Word).toNat < 16 ∧ (16 ≤ (16 : Word).toNat ∧ (hdr3 0 0 4)[5] = 0) ∧
    ((hdr3 0 1 0)[5] ≠ 0 ∧ (8207 : Word).toNat < 16 + 8192) ∧ 16 + 8192 ≤ (8208 : Word).toNat := by decide
theorem witness_locate_maxima :
    (hdr3 255 255 0xFF)[4] = 255 ∧ (hdr3 255 255 0xFF)[5] = 255 ∧ (hdr3 255 255 0xFF)[6].getLsbD 2 = true := by decide
theorem witness_locate_same_inputs :
    let h := hdr3 2 1 0x04
    let h' := (hdr3 2 1 0xFF).set 0 0x4E
    h ≠ h' ∧ h[4] = h'[4] ∧ h[5] = h'[5] ∧ h[6].getLsbD 2 = h'[6].getLsbD 2 := by decide
/-- LocateSourceProperties: trainer clear and set, both located. -/
theorem witness_locate_trainer :
    16 ≤ (41488 : Word).toNat ∧ (hdr3 2 1 0xFB)[6].getLsbD 2 = false ∧ (hdr3 2 1 0x04)[6].getLsbD 2 = true ∧
    locateRegion (hdr3 2 1 0xFB) 41488 = .ok 32784 8192 512 := by decide
/-- LocatedRecordsLieInsideImage: S7's image of 8208 bytes. -/
theorem witness_located_image :
    (List.replicate 8208 (0 : Byte)).length < 2 ^ 32 ∧
    locateRegion (hdr3 0 1 0) (imgLenOf (List.replicate 8208 (0 : Byte)).length) = .ok 16 8192 512 := by
  rw [List.length_replicate]
  decide
/-- TileLanesIndependent: different records that agree in one lane, and a byte of another row. -/
theorem witness_lanes :
    let r := v6.record
    let r' := r.set 3 0xFF
    r ≠ r' ∧ r[0].getLsbD 7 = r'[0].getLsbD 7 ∧ r[8].getLsbD 7 = r'[8].getLsbD 7 ∧ (3 : Fin 16).val % 8 ≠ (0 : Fin 8) := by
  decide
/-- The rules over all transactions: a step that changes GRID, GV and ERR by DECODE. -/
theorem witness_decode_step :
    ∃ t, step { at' v6 with inbox := [.txn 0x0000062400000001] } = .next t ∧ t.block.grid ≠ v6.grid ∧
      v6.gv = false ∧ t.block.gv = true :=
  ⟨_, rfl, by decide, rfl, rfl⟩
/-- A step that changes the region registers and RV by LOCATE. -/
theorem witness_locate_step :
    ∃ t, step { at' (locating 2 1 4 41488) with inbox := [.txn 0x0000062400000002] } = .next t ∧
      t.block.offset ≠ (locating 2 1 4 41488).offset ∧ t.block.rv = true :=
  ⟨_, rfl, by decide, by decide⟩
/-- Steps that clear GV and RV by writes, and one that clears RV by a LOCATE that fails. -/
theorem witness_clearing_steps :
    (∃ t, step { at' { v6 with gv := true } with inbox := [.txn 0x0000040300000000] } = .next t ∧ t.block.gv = false) ∧
    (∃ t, step { at' { v6 with rv := true } with inbox := [.txn 0x0000041000000007] } = .next t ∧ t.block.rv = false ∧
      t.block.hdr ≠ v6.hdr) ∧
    ∃ t, step { at' { v6 with rv := true } with inbox := [.txn 0x0000062400000002] } = .next t ∧ t.block.rv = false ∧
      t.block.err ≠ v6.err :=
  ⟨⟨_, rfl, rfl⟩, ⟨_, rfl, rfl, by decide⟩, _, rfl, by decide, by decide⟩
theorem witness_instances :
    ∃ qs rs, (0 : Nat) ≠ 1 ∧ stepInstance 0 pair = .next qs ∧ stepInstance 1 qs = .next rs :=
  ⟨_, _, by decide, rfl, rfl⟩
/-- HostAccessReachesOneWindow: the last byte of the second window. -/
theorem witness_host_access :
    platformWf pair = true ∧ ∃ p, pair[1]? = some p ∧ p.base + (0xFF : Offset).toNat = 767 :=
  ⟨by decide, _, rfl, by decide⟩

end Sys2Proof.Tests
end

section
/-! The step, one equation per case of the event at the port, and the statements about when it runs and when it stops. -/

namespace Sys2Proof.Machine

/-! ## Equations of the step -/

theorem errReserved_iff_not_errLegal (b : Block) : errReserved b = true ↔ ¬ ErrLegal b := by
  simp [errReserved]

theorem fetchEvent_of_nil {s : State} (h : s.inbox = []) : fetchEvent s = none := by
  simp [fetchEvent, h]

theorem fetchEvent_of_cons {s : State} {e : HostEvent} {q : List HostEvent} (h : s.inbox = e :: q) :
    fetchEvent s = some (e, { s with inbox := q }) := by
  simp [fetchEvent, h]

theorem step_idle {s : State} (h : s.inbox = []) : step s = .fault .noTransaction := by
  simp [step, fetchEvent_of_nil h]

theorem step_reset {s : State} {q : List HostEvent} (h : s.inbox = .reset :: q) :
    step s = .next (applyReset { s with inbox := q }) := by
  simp [step, fetchEvent_of_cons h]

section Transaction

variable {s : State} {w : Txn} {q : List HostEvent} (hq : s.inbox = .txn w :: q)
include hq

theorem step_txn_of_errReserved (he : ¬ ErrLegal s.block) : step s = .fault .reservedErr := by
  have hr : errReserved s.block = true := (errReserved_iff_not_errLegal _).2 he
  simp [step, fetchEvent_of_cons hq, hr]

/-- While ERR is legal, decoding alone decides what the step of a transaction does. -/
theorem step_txn_of_decode_ok {i : Instr} (he : ErrLegal s.block) (hd : decodeTxn w = .ok i) :
    step s = exec i { s with inbox := q } := by
  have hr : ¬ errReserved s.block = true := fun h => (errReserved_iff_not_errLegal _).1 h he
  simp [step, fetchEvent_of_cons hq, hr, hd]

theorem step_txn_of_decode_error {e : DecodeError} (he : ErrLegal s.block) (hd : decodeTxn w = .error e) :
    step s = raiseBusError (busErrorOfDecode e) { s with inbox := q } := by
  have hr : ¬ errReserved s.block = true := fun h => (errReserved_iff_not_errLegal _).1 h he
  simp [step, fetchEvent_of_cons hq, hr, hd]

end Transaction

/-! ## Transactions have a next state -/

/-- No access check stops the block: failed or passed, the transaction has a next state (R93). -/
theorem exec_has_next (i : Instr) (s : State) : ∃ t, exec i s = .next t := by
  cases hc : checkOf i with
  | none => exact ⟨_, exec_ok hc s⟩
  | some e => exact ⟨_, exec_error hc s⟩

theorem step_txn_has_next {s : State} {w : Txn} {q : List HostEvent} (hq : s.inbox = .txn w :: q)
    (he : ErrLegal s.block) : ∃ t, step s = .next t := by
  cases hd : decodeTxn w with
  | error e => exact ⟨_, step_txn_of_decode_error hq he hd⟩
  | ok i =>
    rw [step_txn_of_decode_ok hq he hd]
    exact exec_has_next i _

/-! ## The statements -/

/-- Settles O11: the step's equation for a transaction that decodes. -/
theorem stepRunsTheDecodedTransaction : Obligations.StepRunsTheDecodedTransaction :=
  fun _ _ _ _ hq he hd => step_txn_of_decode_ok hq he hd

/-- Settles O15: one equation of the step per clause, and no bus error stops the block. -/
theorem stepStopsOnlyWhenIdleOrErrReserved : Obligations.StepStopsOnlyWhenIdleOrErrReserved :=
  fun _ =>
    ⟨fun hq => step_idle hq,
     fun _ _ hq he => step_txn_of_errReserved hq he,
     fun _ _ hq he => step_txn_has_next hq he,
     fun _ hq => ⟨_, step_reset hq⟩⟩

end Sys2Proof.Machine
end

section
/-! What one step can do to the registers: every step is one of eight changes, and the invariants and the rules over all
transactions follow case by case. -/

namespace Sys2Proof.Machine

open Sys2Proof.Statements

/-! ## Data writes -/

/-- A data write of one word at an aligned offset of REC stores into REC alone (R89, R90). -/
theorem writeWord_rec {o : Nat} (ha : o % 4 = 0) (h : o < 0x10) (w : Word) (b : Block) :
    ∃ r, writeWord o w b = { b with record := r, gv := false } := by
  simp only [writeWord]
  rw [writeByte_rec h, writeByte_rec (by omega), writeByte_rec (by omega), writeByte_rec (by omega)]
  exact ⟨_, rfl⟩

theorem writeWord_hdr {o : Nat} (ha : o % 4 = 0) (h₁ : 0x10 ≤ o) (h₂ : o < 0x20) (w : Word) (b : Block) :
    ∃ r, writeWord o w b = { b with hdr := r, rv := false } := by
  simp only [writeWord]
  rw [writeByte_hdr h₁ h₂, writeByte_hdr (by omega) (by omega), writeByte_hdr (by omega) (by omega),
    writeByte_hdr (by omega) (by omega)]
  exact ⟨_, rfl⟩

theorem writeWord_imgLen {o : Nat} (ha : o % 4 = 0) (h₁ : 0x20 ≤ o) (h₂ : o < 0x24) (w : Word) (b : Block) :
    ∃ n, writeWord o w b = { b with imgLen := n, rv := false } := by
  simp only [writeWord]
  rw [writeByte_imgLen h₁ h₂, writeByte_imgLen (by omega) (by omega), writeByte_imgLen (by omega) (by omega),
    writeByte_imgLen (by omega) (by omega)]
  exact ⟨_, rfl⟩

/-! ## The changes of a step -/

/-- The next transaction is a write, of a byte or of a word, at `off`. -/
def ServesWriteAt (s : State) (off : Offset) : Prop :=
  (∃ v, Serves s (.wr8 off v)) ∨ ∃ w, Serves s (.wr32 off w)

/-- The registers a step can leave, each with the event that leaves them: what `Laws/Exec.lean` says of the step, with the
operands of the transactions told apart by the register they reach. -/
inductive RegisterChange (s : State) : Block → Prop
  | reset (hs : TakesReset s) : RegisterChange s Block.reset
  | unchanged : RegisterChange s s.block
  | decode (hs : Serves s (.wr32 0x24 cmdDecodeWord)) : RegisterChange s (runDecode s.block)
  | locate (hs : Serves s (.wr32 0x24 cmdLocateWord)) : RegisterChange s (runLocate s.block)
  | illegal (w : Word) (hd : w ≠ cmdDecodeWord) (hl : w ≠ cmdLocateWord) (hs : Serves s (.wr32 0x24 w)) :
      RegisterChange s (illegalCommand s.block)
  | recordWrite (off : Offset) (ho : off.toNat < 0x10) (hs : ServesWriteAt s off) (r : Bytes16) :
      RegisterChange s { s.block with record := r, gv := false }
  | hdrWrite (off : Offset) (ho : 0x10 ≤ off.toNat ∧ off.toNat < 0x20) (hs : ServesWriteAt s off) (r : Bytes16) :
      RegisterChange s { s.block with hdr := r, rv := false }
  | imgLenWrite (off : Offset) (ho : 0x20 ≤ off.toNat ∧ off.toNat < 0x24) (hs : ServesWriteAt s off) (n : Word) :
      RegisterChange s { s.block with imgLen := n, rv := false }

/-- A command is never a transaction of its own: the CMD rows reach the block as the data of a WR32 (R52, R56). -/
theorem serves_not_command {s : State} {i : Instr} (hs : Serves s i) : i ≠ .decode ∧ i ≠ .locate := by
  obtain ⟨w, q, -, hd⟩ := hs
  obtain ⟨-, ⟨-, -, rfl⟩ | ⟨-, -, rfl⟩ | ⟨-, -, rfl⟩ | ⟨-, -, rfl⟩⟩ := decodeTxn_cases hd <;> simp

theorem registerChange_writeByte {s : State} {off : Offset} {v : Byte} (hs : Serves s (.wr8 off v)) :
    RegisterChange s (writeByte off.toNat v s.block) := by
  have hw : ServesWriteAt s off := .inl ⟨v, hs⟩
  obtain ⟨ho, h⟩ | ⟨ho, h⟩ | ⟨ho, h⟩ | ⟨-, h⟩ := writeByte_cases off.toNat v s.block <;> rw [h]
  · exact .recordWrite off ho hw _
  · exact .hdrWrite off ho hw _
  · exact .imgLenWrite off ho hw _
  · exact .unchanged

/-- An aligned word lies in one register, so a data WR32 changes one register as a WR8 does. -/
theorem registerChange_writeWord {s : State} {off : Offset} {w : Word} (hs : Serves s (.wr32 off w))
    (ha : off.toNat % 4 = 0) (ho : off.toNat < 0x24) : RegisterChange s (writeWord off.toNat w s.block) := by
  have hw : ServesWriteAt s off := .inr ⟨w, hs⟩
  by_cases h₁ : off.toNat < 0x10
  · obtain ⟨r, h⟩ := writeWord_rec ha h₁ w s.block
    exact h ▸ .recordWrite off h₁ hw r
  by_cases h₂ : off.toNat < 0x20
  · obtain ⟨r, h⟩ := writeWord_hdr ha (by omega) h₂ w s.block
    exact h ▸ .hdrWrite off ⟨by omega, h₂⟩ hw r
  · obtain ⟨n, h⟩ := writeWord_imgLen ha (by omega) ho w s.block
    exact h ▸ .imgLenWrite off ⟨by omega, ho⟩ hw n

theorem registerChange_runCommandWord {s : State} {w : Word} (hs : Serves s (.wr32 0x24 w)) :
    RegisterChange s (runCommandWord w s.block) := by
  unfold runCommandWord
  split
  · subst w; exact .decode hs
  split
  · subst w; exact .locate hs
  · exact .illegal w ‹_› ‹_› hs

/-- The effect of a served transaction that passes its checks is one of the changes. -/
theorem registerChange_effectOf {s : State} {i : Instr} (hs : Serves s i) (hc : checkOf i = none) :
    RegisterChange s (effectOf i s.block) := by
  cases i with
  | rd8 off => exact .unchanged
  | rd32 off => exact .unchanged
  | wr8 off v => exact registerChange_writeByte hs
  | wr32 off w =>
    obtain ⟨ha, ho⟩ := (busCheck_write_four off).1 hc
    simp only [effectOf]
    split
    · subst off; exact registerChange_runCommandWord hs
    · rename_i hne
      have : off.toNat ≠ 0x24 := fun h => hne (BitVec.eq_of_toNat_eq h)
      exact registerChange_writeWord hs ha (by omega)
  | decode => exact absurd rfl (serves_not_command hs).1
  | locate => exact absurd rfl (serves_not_command hs).2

/-- Every step leaves registers that one of the changes gives. -/
theorem registerChange_of_step {s t : State} (h : step s = .next t) : RegisterChange s t.block := by
  obtain ⟨q, hq, rfl⟩ | ⟨w, q, e, -, -, rfl⟩ | ⟨w, q, i, hq, -, hd, h⟩ := step_cases h
  · exact .reset ⟨q, hq⟩
  · exact .unchanged
  · obtain ⟨e, -, rfl⟩ | ⟨hc, rfl⟩ := exec_cases h
    · exact .unchanged
    · exact registerChange_effectOf ⟨w, q, hq, hd⟩ hc

end Sys2Proof.Machine
end

section
/-! The registers' invariants: they hold at reset, each command establishes what it writes, and every step keeps them. -/

namespace Sys2Proof.Machine

/-! ## Reset -/

theorem registersZero_reset : RegistersZero Block.reset := by
  simp [Block.reset]

theorem validityBits_reset : ValidityBits Block.reset :=
  ⟨nofun, nofun⟩

theorem resultRegisters_reset : ResultRegisters Block.reset :=
  ⟨by decide, .inl ⟨rfl, rfl, rfl⟩, fun _ => ⟨rfl, rfl, rfl, rfl⟩⟩

/-! ## LOCATE establishes what it writes -/

/-- R94's record is about the two codes of LOCATE only. -/
theorem failedLocateCleared_of_other_code {b : Block} (h : b.err = errNone ∨ b.err = errIllegalCommand) :
    FailedLocateCleared b := by
  obtain h | h := h <;> simp [h, errNone, errIllegalCommand, errMissingGraphicsRom, errTruncatedInput]

@[simp] theorem runLocate_record (b : Block) : (runLocate b).record = b.record := by
  obtain ⟨h, -⟩ := runLocate_frame b; exact h
@[simp] theorem runLocate_hdr (b : Block) : (runLocate b).hdr = b.hdr := by
  obtain ⟨-, h, -⟩ := runLocate_frame b; exact h
@[simp] theorem runLocate_imgLen (b : Block) : (runLocate b).imgLen = b.imgLen := by
  obtain ⟨-, -, h, -⟩ := runLocate_frame b; exact h
@[simp] theorem runLocate_grid (b : Block) : (runLocate b).grid = b.grid := by
  obtain ⟨-, -, -, h, -⟩ := runLocate_frame b; exact h
@[simp] theorem runLocate_gv (b : Block) : (runLocate b).gv = b.gv := by
  obtain ⟨-, -, -, -, h⟩ := runLocate_frame b; exact h

/-- LOCATE leaves RV as the record of its own success (R72). -/
theorem runLocate_rv_iff (b : Block) : (runLocate b).rv = true ↔ (runLocate b).err = 0 := by
  cases h : locateRegion b.hdr b.imgLen with
  | ok o l t => simp [runLocate_ok h]
  | err c =>
    obtain rfl | rfl := locateRegion_err h <;> simp [runLocate_err h, errTruncatedInput, errMissingGraphicsRom]

/-- The bounds of a located region (R71). -/
theorem locateRegion_ok_bounds {hdr : Bytes16} {imgLen : Word} {o l t : Nat} (h : locateRegion hdr imgLen = .ok o l t) :
    16 ≤ o ∧ o ≤ 4178448 ∧ l % 8192 = 0 ∧ 8192 ≤ l ∧ l ≤ 2088960 ∧ t * 16 = l := by
  obtain ⟨-, hchr, -, rfl, rfl, rfl⟩ := locateRegion_ok_iff.1 h
  have ho := regionOffset_bounds hdr
  have hl := regionLength_le hdr
  have ht := regionTiles_eq hdr
  simp only [regionLength, Config.chrUnit] at hl ⊢
  omega

/-- A located region's values come back whole from their 32-bit registers (R71). -/
theorem locateRegion_ok_toNat {hdr : Bytes16} {imgLen : Word} {o l t : Nat} (h : locateRegion hdr imgLen = .ok o l t) :
    (BitVec.ofNat 32 o).toNat = o ∧ (BitVec.ofNat 32 l).toNat = l ∧ (BitVec.ofNat 32 t).toNat = t := by
  have := locateRegion_ok_bounds h
  simp only [BitVec.toNat_ofNat]
  omega

theorem regionValid_runLocate (b : Block) : RegionValid (runLocate b) := by
  cases h : locateRegion b.hdr b.imgLen with
  | ok o l t =>
    obtain ⟨ho, hl, ht⟩ := locateRegion_ok_toNat h
    simp [runLocate_ok h, h, ho, hl, ht]
  | err c => simp [runLocate_err h]

theorem resultRegisters_runLocate (b : Block) : ResultRegisters (runLocate b) := by
  cases h : locateRegion b.hdr b.imgLen with
  | ok o l t =>
    obtain ⟨ho, hl, ht⟩ := locateRegion_ok_toNat h
    rw [runLocate_ok h]
    refine ⟨Nat.zero_le 3, .inr ?_, failedLocateCleared_of_other_code (.inl rfl)⟩
    simpa only [ho, hl, ht] using locateRegion_ok_bounds h
  | err c =>
    rw [runLocate_err h]
    refine ⟨?_, .inl ⟨rfl, rfl, rfl⟩, fun _ => ⟨rfl, rfl, rfl, rfl⟩⟩
    obtain rfl | rfl := locateRegion_err h <;> simp [errTruncatedInput, errMissingGraphicsRom]

/-! ## Every change keeps them -/

theorem RegisterChange.keeps_validityBits {s : State} {b : Block} (h : RegisterChange s b)
    (hb : ValidityBits s.block) : ValidityBits b := by
  obtain ⟨hg, hr⟩ := hb
  cases h with
  | reset => exact validityBits_reset
  | unchanged => exact ⟨hg, hr⟩
  | decode => exact ⟨fun _ => rfl, hr⟩
  | locate => exact ⟨by simpa [GridValid] using hg, regionValid_runLocate _⟩
  | illegal => exact ⟨hg, hr⟩
  | recordWrite => exact ⟨nofun, hr⟩
  | hdrWrite => exact ⟨hg, nofun⟩
  | imgLenWrite => exact ⟨hg, nofun⟩

theorem RegisterChange.keeps_resultRegisters {s : State} {b : Block} (h : RegisterChange s b)
    (hb : ResultRegisters s.block) : ResultRegisters b := by
  obtain ⟨he, hr, hf⟩ := hb
  cases h with
  | reset => exact resultRegisters_reset
  | unchanged => exact ⟨he, hr, hf⟩
  | decode => exact ⟨Nat.zero_le 3, hr, failedLocateCleared_of_other_code (.inl rfl)⟩
  | locate => exact resultRegisters_runLocate _
  | illegal => exact ⟨le_refl 3, hr, failedLocateCleared_of_other_code (.inr rfl)⟩
  | recordWrite => exact ⟨he, hr, hf⟩
  | hdrWrite => exact ⟨he, hr, fun h => ⟨rfl, (hf h).2⟩⟩
  | imgLenWrite => exact ⟨he, hr, fun h => ⟨rfl, (hf h).2⟩⟩

/-! ## The statements -/

/-- Settles O4: the change a step makes keeps both implications. -/
theorem stepKeepsValidityBits : Obligations.StepKeepsValidityBits :=
  fun _ _ hb h => (registerChange_of_step h).keeps_validityBits hb

/-- Settles O5: the change a step makes keeps what ERR and the region registers hold. -/
theorem stepKeepsResultRegisters : Obligations.StepKeepsResultRegisters :=
  fun _ _ hb h => (registerChange_of_step h).keeps_resultRegisters hb

/-- Settles O1: the reset state and the step of a reset event both have the registers of `Block.reset`. -/
theorem resetZeroesEveryRegister : Obligations.ResetZeroesEveryRegister :=
  ⟨registersZero_reset, fun _ _ hq => ⟨_, step_reset hq, registersZero_reset⟩⟩

/-- Settles O3: the invariant's base case. -/
theorem resetResultRegistersLegal : Obligations.ResetResultRegistersLegal := resultRegisters_reset

end Sys2Proof.Machine
end

section
/-! The rules over all transactions: which event a step served, told from the register it changed. -/

namespace Sys2Proof.Machine

open Sys2Proof.Statements

namespace RegisterChange

variable {s : State} {b : Block} (h : RegisterChange s b)
include h

theorem served_of_grid_ne (hne : b.grid ≠ s.block.grid) :
    TakesReset s ∨ Serves s (.wr32 0x24 cmdDecodeWord) := by
  cases h with
  | reset hs => exact .inl hs
  | decode hs => exact .inr hs
  | unchanged | locate | illegal | recordWrite | hdrWrite | imgLenWrite => simp at hne

theorem served_of_region_ne
    (hne : b.offset ≠ s.block.offset ∨ b.length ≠ s.block.length ∨ b.tiles ≠ s.block.tiles) :
    TakesReset s ∨ Serves s (.wr32 0x24 cmdLocateWord) := by
  cases h with
  | reset hs => exact .inl hs
  | locate hs => exact .inr hs
  | unchanged | decode | illegal | recordWrite | hdrWrite | imgLenWrite => simp at hne

theorem served_of_inputs_ne
    (hne : b.record ≠ s.block.record ∨ b.hdr ≠ s.block.hdr ∨ b.imgLen ≠ s.block.imgLen) :
    TakesReset s ∨ ∃ off : Offset, off.toNat < 0x24 ∧ ServesWriteAt s off := by
  cases h with
  | reset hs => exact .inl hs
  | recordWrite off ho hs => exact .inr ⟨off, by omega, hs⟩
  | hdrWrite off ho hs => exact .inr ⟨off, by omega, hs⟩
  | imgLenWrite off ho hs => exact .inr ⟨off, by omega, hs⟩
  | unchanged | decode | locate | illegal => simp at hne

theorem served_of_gv_set (h₀ : s.block.gv = false) (h₁ : b.gv = true) : Serves s (.wr32 0x24 cmdDecodeWord) := by
  cases h with
  | decode hs => exact hs
  | reset | recordWrite => cases h₁
  | unchanged | locate | illegal | hdrWrite | imgLenWrite => simp [h₀] at h₁

theorem served_of_gv_cleared (h₀ : s.block.gv = true) (h₁ : b.gv = false) :
    TakesReset s ∨ ∃ off : Offset, off.toNat < 0x10 ∧ ServesWriteAt s off := by
  cases h with
  | reset hs => exact .inl hs
  | recordWrite off ho hs => exact .inr ⟨off, ho, hs⟩
  | decode => cases h₁
  | unchanged | locate | illegal | hdrWrite | imgLenWrite => simp [h₀] at h₁

theorem served_of_rv_set (h₀ : s.block.rv = false) (h₁ : b.rv = true) :
    Serves s (.wr32 0x24 cmdLocateWord) ∧ b.err = 0 := by
  cases h with
  | locate hs => exact ⟨hs, (runLocate_rv_iff s.block).1 h₁⟩
  | reset | hdrWrite | imgLenWrite => cases h₁
  | unchanged | decode | illegal | recordWrite => simp [h₀] at h₁

theorem served_of_rv_cleared (h₀ : s.block.rv = true) (h₁ : b.rv = false) :
    TakesReset s ∨ (Serves s (.wr32 0x24 cmdLocateWord) ∧ b.err ≠ 0) ∨
      ∃ off : Offset, 0x10 ≤ off.toNat ∧ off.toNat < 0x24 ∧ ServesWriteAt s off := by
  cases h with
  | reset hs => exact .inl hs
  | locate hs => exact .inr (.inl ⟨hs, fun he => by simp [(runLocate_rv_iff s.block).2 he] at h₁⟩)
  | hdrWrite off ho hs => exact .inr (.inr ⟨off, by omega, by omega, hs⟩)
  | imgLenWrite off ho hs => exact .inr (.inr ⟨off, by omega, by omega, hs⟩)
  | unchanged | decode | illegal | recordWrite => simp [h₀] at h₁

end RegisterChange

/-! ## The statements -/

/-- Settles O46: of all changes only a reset's and DECODE's touch GRID. -/
theorem gridWrittenOnlyByDecode : Obligations.GridWrittenOnlyByDecode :=
  fun _ _ h => (registerChange_of_step h).served_of_grid_ne

/-- Settles O47: of all changes only a reset's and LOCATE's touch the region registers. -/
theorem regionWrittenOnlyByLocate : Obligations.RegionWrittenOnlyByLocate :=
  fun _ _ h => (registerChange_of_step h).served_of_region_ne

/-- Settles O49: GV set is DECODE's change, GV cleared a reset's or a record write's. -/
theorem gvChanges : Obligations.GvChanges :=
  fun _ _ h => ⟨(registerChange_of_step h).served_of_gv_set, (registerChange_of_step h).served_of_gv_cleared⟩

/-- Settles O50: RV set is the change of a LOCATE with ERR 0; RV cleared is a reset's, that of a LOCATE with another ERR,
or that of a write to HDR or IMGLEN. -/
theorem rvChanges : Obligations.RvChanges :=
  fun _ _ h => ⟨(registerChange_of_step h).served_of_rv_set, (registerChange_of_step h).served_of_rv_cleared⟩

/-- Settles O51: of all changes only a reset's and a data write's touch the inputs. -/
theorem inputsWrittenOnlyByDataWrites : Obligations.InputsWrittenOnlyByDataWrites :=
  fun _ _ h => (registerChange_of_step h).served_of_inputs_ne

end Sys2Proof.Machine
end

section
/-! Word reads of the window: the bytes of a word view, the 32-bit registers and STATUS, and the two views of GRID. -/

namespace Sys2Proof.Machine

open Sys2Proof.Statements

/-! ## Words and their bytes -/

/-- A RD32 that passes its checks answers the word view and leaves the registers alone (R86). -/
theorem rd32_completes {off : Offset} (h : busCheck .read .four off = none) (s : State) :
    CompletesWith (.rd32 off) s s.block (.word (wordView s.block off.toNat)) :=
  exec_ok (i := .rd32 off) h s

/-- A field inside one byte of a word, read from the word. -/
theorem extractLsb'_getByte (w : Word) (k : Nat) {i n : Nat} (h : i + n ≤ 8) :
    (getByte w k).extractLsb' i n = w.extractLsb' (8 * k + i) n := by
  apply BitVec.eq_of_getLsbD_eq
  intro j hj
  have : i + j < 8 := by omega
  simp [getByte, this, Nat.add_assoc]

/-- A word view is known by its four bytes (R40). -/
theorem wordView_eq {b : Block} {o : Nat} {w : Word} (ho : o ≠ 0x24)
    (h : ∀ k < 4, byteView b (o + k) = getByte w k) : wordView b o = w := by
  have h₀ : byteView b o = getByte w 0 := h 0 (by omega)
  rw [wordView, if_neg ho, h 3 (by omega), h 2 (by omega), h 1 (by omega), h₀, wordOfBytes_getByte]

/-- The bytes of a word view are the byte views (R41). -/
theorem getByte_wordView {b : Block} {o k : Nat} (ho : o ≠ 0x24) (hk : k < 4) :
    getByte (wordView b o) k = byteView b (o + k) := by
  rw [wordView, if_neg ho]
  apply BitVec.eq_of_getLsbD_eq
  intro i hi
  rw [getByte, BitVec.getLsbD_extractLsb', wordOfBytes_bit]
  interval_cases k <;> interval_cases i <;> simp

/-! ## The 32-bit registers and STATUS -/

theorem wordView_imgLen (b : Block) : wordView b 0x20 = b.imgLen :=
  wordView_eq (by decide) fun k hk => by interval_cases k <;> rfl

theorem wordView_status (b : Block) : wordView b 0x28 = statusWord b :=
  wordView_eq (by decide) fun k hk => by interval_cases k <;> rfl

theorem wordView_offset (b : Block) : wordView b 0x2C = b.offset :=
  wordView_eq (by decide) fun k hk => by interval_cases k <;> rfl

theorem wordView_length (b : Block) : wordView b 0x30 = b.length :=
  wordView_eq (by decide) fun k hk => by interval_cases k <;> rfl

theorem wordView_tiles (b : Block) : wordView b 0x34 = b.tiles :=
  wordView_eq (by decide) fun k hk => by interval_cases k <;> rfl

/-! ## The views of GRID -/

theorem byteView_packed (b : Block) (y : Fin 8) {h : Nat} (hh : h < 2) :
    byteView b (0x40 + 2 * y + h) = packedByte b.grid y h := by
  simp (disch := omega) only [byteView, dif_neg, if_neg, if_pos]
  rw [show (0x40 + 2 * y.val + h - 0x40) / 2 = y by omega, show (0x40 + 2 * y.val + h - 0x40) % 2 = h by omega]

theorem byteView_unpacked (b : Block) (y x : Fin 8) :
    byteView b (0x80 + 8 * y + x) = (b.grid[y][x]).setWidth 8 := by
  simp (disch := omega) only [byteView, dif_neg, if_neg, if_pos]
  rw [show (0x80 + 8 * y.val + x.val - 0x80) / 8 = y by omega, show (0x80 + 8 * y.val + x.val - 0x80) % 8 = x by omega,
    unpackedByte, gridCell_eq]

/-- A zero-extended cell: the cell in bits 1:0, zeros above (R23). -/
theorem zeroExtended_pixel_fields (c : Pixel) :
    (c.setWidth 8).extractLsb' 0 2 = c ∧ (c.setWidth 8).extractLsb' 2 6 = 0 := by
  revert c; decide

theorem packedByte_bit (g : Grid) (y h i : Nat) :
    (packedByte g y h).getLsbD i =
      if i < 2 then (gridCell g y (4 * h)).getLsbD i
      else if i - 2 < 2 then (gridCell g y (4 * h + 1)).getLsbD (i - 2)
      else if i - 2 - 2 < 2 then (gridCell g y (4 * h + 2)).getLsbD (i - 2 - 2)
      else (gridCell g y (4 * h + 3)).getLsbD (i - 2 - 2 - 2) := by
  change BitVec.getLsbD (w := 2 + 2 + 2 + 2)
    (gridCell g y (4 * h + 3) ++ gridCell g y (4 * h + 2) ++ gridCell g y (4 * h + 1) ++ gridCell g y (4 * h)) i = _
  simp only [BitVec.getLsbD_append]

/-- The cells of a packed byte, the lowest column in the lowest bits (R23). -/
theorem extractLsb'_packedByte (g : Grid) (y h : Nat) {c : Nat} (hc : c < 4) :
    (packedByte g y h).extractLsb' (2 * c) 2 = gridCell g y (4 * h + c) := by
  apply BitVec.eq_of_getLsbD_eq
  intro i hi
  rw [BitVec.getLsbD_extractLsb', packedByte_bit]
  interval_cases c <;> interval_cases i <;> simp

theorem byteView_packed_cell (b : Block) (y x : Fin 8) :
    (byteView b (0x40 + 2 * y + x.val / 4)).extractLsb' (2 * (x.val % 4)) 2 = b.grid[y][x] := by
  rw [byteView_packed b y (by omega), extractLsb'_packedByte _ _ _ (by omega), ← gridCell_eq]
  congr 1
  omega

theorem wordView_packed_cell (b : Block) (y x : Fin 8) :
    (wordView b (0x40 + 4 * (y.val / 2))).extractLsb' (8 * (2 * (y.val % 2) + x.val / 4) + 2 * (x.val % 4)) 2 =
      b.grid[y][x] := by
  have hbyte : 0x40 + 4 * (y.val / 2) + (2 * (y.val % 2) + x.val / 4) = 0x40 + 2 * y.val + x.val / 4 := by omega
  rw [← extractLsb'_getByte _ _ (by omega), getByte_wordView (by omega) (by omega), hbyte, byteView_packed_cell]

/-! ## The statements -/

/-- Settles O22: the word a RD32 of STATUS answers is `statusWord`, whose bits are known one by one. -/
theorem statusWordFields : Obligations.StatusWordFields := by
  intro s
  refine ⟨statusWord s.block, wordView_status s.block ▸ rd32_completes (by decide) s, ?_, ?_, ?_, ?_, ?_⟩
  · rw [statusWord_bit]; simp
  · rw [statusWord_bit]; simp
  all_goals
    apply BitVec.eq_of_getLsbD_eq
    intro i hi
    rw [BitVec.getLsbD_extractLsb', statusWord_bit]
    interval_cases i <;> simp

/-- Settles O23: each register is the word view at its offset. -/
theorem rd32ReadsWholeRegisters : Obligations.Rd32ReadsWholeRegisters :=
  fun s =>
    ⟨wordView_imgLen s.block ▸ rd32_completes (by decide) s,
     wordView_offset s.block ▸ rd32_completes (by decide) s,
     wordView_length s.block ▸ rd32_completes (by decide) s,
     wordView_tiles s.block ▸ rd32_completes (by decide) s⟩

/-- Settles O25: both views of GRID hold the cell at the place R23 gives. -/
theorem gridViewsAgree : Obligations.GridViewsAgree := by
  intro b y x
  have hcol : 2 * (x.val - 4 * (x.val / 4)) = 2 * (x.val % 4) := by omega
  have hbit : 16 * (y.val - 2 * (y.val / 2)) + 2 * x.val = 8 * (2 * (y.val % 2) + x.val / 4) + 2 * (x.val % 4) := by
    omega
  rw [byteView_unpacked]
  exact ⟨hcol ▸ byteView_packed_cell b y x, hbit ▸ wordView_packed_cell b y x, zeroExtended_pixel_fields _⟩

end Sys2Proof.Machine
end

section
/-! The accesses of the window, one at a time and in turn: what each takes from the port, when it is refused as misaligned,
reads without effect, and word accesses as four byte accesses. -/

namespace Sys2Proof.Machine

open Sys2Proof.Statements

/-! ## Answers of transactions -/

/-- A transaction leaves the events at the port alone and is answered once, whether refused or not (R46, R93). -/
theorem exec_answers_once {i : Instr} {s t : State} (h : exec i s = .next t) :
    t.inbox = s.inbox ∧ ∃ r, t.replies = r :: s.replies := by
  obtain ⟨e, -, rfl⟩ | ⟨-, rfl⟩ := exec_cases h
  · exact ⟨rfl, _, rfl⟩
  · exact ⟨rfl, _, rfl⟩

theorem answerOf_ne_busError (i : Instr) (b : Block) (e : BusError) : answerOf i b ≠ .busError e := by
  cases i <;> simp [answerOf]

/-- A transaction is refused for a reason exactly when that is the reason its access checks give (R84). -/
theorem refusedWith_iff_checkOf {i : Instr} {s : State} {e : BusError} :
    RefusedWith i s e ↔ checkOf i = some e := by
  constructor
  · intro h
    obtain ⟨e', hc, ht⟩ | ⟨-, ht⟩ := exec_cases h
    · obtain rfl : e = e' := by simpa [respond] using ht
      exact hc
    · have hr : .busError e = answerOf i s.block := by simpa using congrArg State.replies ht
      exact absurd hr.symm (answerOf_ne_busError i s.block e)
  · exact fun hc => exec_error hc s

/-! ## The alignment check -/

/-- Alignment is the first of the access checks, and no later one gives its reason (R84). -/
theorem busCheck_eq_misaligned_iff (dir : Dir) (width : Width) (off : Offset) :
    busCheck dir width off = some .misaligned ↔ width = .four ∧ off.toNat % 4 ≠ 0 := by
  by_cases h : width = .four ∧ off.toNat % 4 ≠ 0
  · simp [busCheck, h]
  · rw [busCheck, if_neg h]
    split_ifs <;> simp [h]

theorem checkOf_eq_misaligned_iff (i : Instr) : checkOf i = some .misaligned ↔ i.wellFormed = false := by
  cases i with
  | rd8 off | wr8 off data | rd32 off | wr32 off data =>
    simp [checkOf, busCheck_eq_misaligned_iff, Instr.wellFormed]
  | decode | locate => simp [checkOf, Instr.wellFormed]

/-! ## Reads -/

/-- The answer of a transaction at given registers, its access checks included (R84, R93). -/
def replyOf (i : Instr) (b : Block) : Reply :=
  match checkOf i with
  | some e => .busError e
  | none => answerOf i b

/-- A transaction whose effect is none does nothing but answer (R44). -/
theorem exec_of_effectOf_id {i : Instr} (hi : effectOf i = id) (s : State) :
    exec i s = .next (respond (replyOf i s.block) s) := by
  cases hc : checkOf i with
  | some e => simp [exec_error hc, replyOf, hc]
  | none => simp [exec_ok hc, replyOf, hc, hi, mapBlock]

/-- A RD8 that passes its checks answers the byte view and leaves the registers alone (R85). -/
theorem rd8_completes {off : Offset} (h : busCheck .read .one off = none) (s : State) :
    CompletesWith (.rd8 off) s s.block (.byte (byteView s.block off.toNat)) :=
  exec_ok (i := .rd8 off) h s

/-! ## Byte k of an aligned word -/

/-- No byte of an aligned word lies beyond the end of the window. -/
theorem toNat_add_of_aligned {off : Offset} (ha : off.toNat % 4 = 0) {k : Nat} (hk : k < 4) :
    (off + BitVec.ofNat 8 k).toNat = off.toNat + k := by
  have := off.isLt
  rw [BitVec.toNat_add, BitVec.toNat_ofNat]
  omega

/-- The ranges of the window begin and end at multiples of 4 (R32). -/
theorem readable_add_of_aligned {o k : Nat} (ha : o % 4 = 0) (hk : k < 4) (h : Readable o) : Readable (o + k) := by
  omega

/-! ## Writes -/

/-- A WR8 at a writable offset writes its byte (R88). -/
theorem wr8_completes {off : Offset} (h : off.toNat < 0x24) (v : Byte) (s : State) :
    exec (.wr8 off v) s = .next (respond .done (mapBlock (writeByte off.toNat v) s)) :=
  exec_ok (i := .wr8 off v) ((busCheck_write_one off).2 h) s

/-- A WR32 at an aligned data offset writes its four bytes (R89). -/
theorem wr32_completes {off : Offset} (ha : off.toNat % 4 = 0) (h : off.toNat < 0x24) (w : Word) (s : State) :
    exec (.wr32 off w) s = .next (respond .done (mapBlock (writeWord off.toNat w) s)) := by
  have hcheck : checkOf (.wr32 off w) = none := (busCheck_write_four off).2 ⟨ha, by omega⟩
  have hcmd : off ≠ Config.symCmd := by rintro rfl; exact absurd h (by decide)
  rw [exec_ok hcheck, effectOf, if_neg hcmd]
  rfl

/-- Byte writes to two record bytes commute (R37). -/
theorem writeByte_rec_comm {o o' : Nat} (ho : o < 0x10) (ho' : o' < 0x10) (hne : o ≠ o') (v v' : Byte) (b : Block) :
    writeByte o' v' (writeByte o v b) = writeByte o v (writeByte o' v' b) := by
  simp only [writeByte_rec ho, writeByte_rec ho', Vector.set_comm _ _ hne]

/-! ## The statements -/

/-- Settles O14: a reset and each kind of transaction take the event at the head, and a transaction is answered once. -/
theorem eventsServedInIssueOrder : Obligations.EventsServedInIssueOrder := by
  intro s t h
  obtain ⟨q, hq, rfl⟩ | ⟨w, q, e, hq, -, rfl⟩ | ⟨w, q, i, hq, -, -, hexec⟩ := step_cases h
  · exact .inl ⟨hq, rfl⟩
  · exact .inr ⟨w, _, hq, rfl⟩
  · obtain ⟨hinbox, r, hr⟩ := exec_answers_once hexec
    exact .inr ⟨w, r, hinbox ▸ hq, hr⟩

/-- Settles O18: the reason answered is the one the checks give, and MISALIGNED is the alignment check's alone. -/
theorem misalignedExactlyWhenIllFormed : Obligations.MisalignedExactlyWhenIllFormed :=
  fun i _ => refusedWith_iff_checkOf.trans (checkOf_eq_misaligned_iff i)

/-- Settles O24: a read only answers, and its answer is a function of the registers, which it leaves alone. -/
theorem readsAreIdempotentWithoutEffect : Obligations.ReadsAreIdempotentWithoutEffect := by
  intro i s t u hread ht hu
  have hid : effectOf i = id := by obtain ⟨off, rfl | rfl⟩ := hread <;> rfl
  rw [exec_of_effectOf_id hid] at ht hu
  cases ht
  cases hu
  exact ⟨rfl, rfl, rfl⟩

/-- Settles O26: each byte of the word view is the byte view at its own offset. -/
theorem wordReadAgreesWithByteReads : Obligations.WordReadAgreesWithByteReads := by
  intro s off ha hr
  refine ⟨wordView s.block off.toNat, rd32_completes ((busCheck_read_four off).2 ⟨ha, by omega⟩) s, fun k => ?_⟩
  have hoff : (off + BitVec.ofNat 8 k).toNat = off.toNat + k := toNat_add_of_aligned ha k.isLt
  have hbyte : (wordView s.block off.toNat).extractLsb' (8 * k.val) 8 = byteView s.block (off + BitVec.ofNat 8 k).toNat := by
    rw [hoff, ← getByte_wordView (by omega) k.isLt, getByte]
  have hcheck : busCheck .read .one (off + BitVec.ofNat 8 k) = none :=
    (busCheck_read_one _).2 (hoff ▸ readable_add_of_aligned ha k.isLt hr)
  rw [hbyte]
  exact rd8_completes hcheck s

/-- Settles O31: a word write is its four byte writes, and no check refuses one of them. -/
theorem wordWriteAgreesWithByteWrites : Obligations.WordWriteAgreesWithByteWrites := by
  intro s off w ha ho
  have h₁ : (off + 1).toNat = off.toNat + 1 := toNat_add_of_aligned ha (k := 1) (by omega)
  have h₂ : (off + 2).toNat = off.toNat + 2 := toNat_add_of_aligned ha (k := 2) (by omega)
  have h₃ : (off + 3).toNat = off.toNat + 3 := toNat_add_of_aligned ha (k := 3) (by omega)
  refine ⟨_, _, _, _, _, wr32_completes ha ho w s, wr8_completes ho _ s, wr8_completes (by omega) _ _,
    wr8_completes (by omega) _ _, wr8_completes (by omega) _ _, ?_⟩
  simp only [respond_block, mapBlock_block, h₁, h₂, h₃]
  rfl

/-- Settles O32: both orders store the same two record bytes and clear GV. -/
theorem recordWriteOrderIrrelevant : Obligations.RecordWriteOrderIrrelevant := by
  intro s t t' u u' off off' v v' hne ho ho' ht hu ht' hu'
  rw [wr8_completes (by omega)] at ht hu ht' hu'
  cases ht
  cases hu
  cases ht'
  cases hu'
  exact writeByte_rec_comm ho ho' (fun h => hne (BitVec.eq_of_toNat_eq h)) v v' s.block

end Sys2Proof.Machine
end

section
/-! The host's side: located records in the image, and routing of an access to a window. -/

namespace Sys2Proof.Machine

/-! ## The image -/

/-- The length of an image shorter than 2^32 bytes is written to IMGLEN whole (R21). -/
theorem imgLenOf_toNat {n : Nat} (h : n < 2 ^ 32) : (imgLenOf n).toNat = n := by
  rw [imgLenOf, BitVec.toNat_ofNat]
  omega

/-! ## Windows -/

theorem holds_iff (p : Placed) (addr : Nat) : p.holds addr = true ↔ p.base ≤ addr ∧ addr < p.base + 256 := by
  simp [Placed.holds]

theorem disjoint_iff (p q : Placed) : p.disjoint q = true ↔ p.base + 256 ≤ q.base ∨ q.base + 256 ≤ p.base := by
  simp [Placed.disjoint]

/-- No address lies in two disjoint windows. -/
theorem not_holds_of_disjoint {p q : Placed} {addr : Nat} (hd : p.disjoint q = true) (hp : p.holds addr = true) :
    ¬ q.holds addr = true := by
  rw [disjoint_iff] at hd
  rw [holds_iff] at hp ⊢
  omega

/-- On a well-formed platform two windows are disjoint, in whichever order they stand (R33). -/
theorem disjoint_of_platformWf {ps : Platform} (hwf : platformWf ps = true) {j k : Nat} {p q : Placed} (hne : j ≠ k)
    (hj : ps[j]? = some p) (hk : ps[k]? = some q) : p.disjoint q = true := by
  simp only [platformWf, Bool.and_eq_true, decide_eq_true_eq] at hwf
  obtain ⟨-, hpair⟩ := hwf
  obtain ⟨hjl, rfl⟩ := List.getElem?_eq_some_iff.1 hj
  obtain ⟨hkl, rfl⟩ := List.getElem?_eq_some_iff.1 hk
  rw [List.pairwise_iff_getElem] at hpair
  obtain hlt | hlt := Nat.lt_or_gt_of_ne hne
  · exact hpair j k hjl hkl hlt
  · have := (disjoint_iff _ _).1 (hpair k j hkl hjl hlt)
    exact (disjoint_iff _ _).2 this.symm

/-- Every window offset has its host address (R33). -/
theorem holds_base_add_offset (p : Placed) (o : Offset) : p.holds (p.base + o.toNat) = true :=
  (holds_iff p _).2 ⟨by omega, by have := o.isLt; omega⟩

/-- The OFF of an access is its distance from TDEC_BASE (R33, R53). -/
theorem accept_base_add_offset (p : Placed) (dir : Bool) (size : BitVec 2) (o : Offset) (data : Word) :
    p.accept dir size (p.base + o.toNat) data =
      { p with machine := issue (.txn (packTxn dir size o data)) p.machine } := by
  simp [Placed.accept]

/-! ## The statements -/

/-- Settles O43: IMGLEN is the image's length, so the region ends inside the image; an address of the region lies in the
record its distance from the region's start, divided by 16, numbers. -/
theorem locatedRecordsLieInsideImage : Obligations.LocatedRecordsLieInsideImage := by
  intro hdr img o l t hlen h
  obtain ⟨-, -, -, -, -, htiles⟩ := locateRegion_ok_bounds h
  obtain ⟨-, -, hend, rfl, rfl, -⟩ := locateRegion_ok_iff.1 h
  rw [imgLenOf_toNat hlen] at hend
  refine ⟨fun n hn => by omega, htiles, fun a h₁ h₂ => ?_⟩
  exact ⟨(a - regionOffset hdr) / 16, by omega, (a - regionOffset hdr) % 16, by omega, by omega⟩

/-- Settles O53: the window at the address takes the access, and a window disjoint from it does not hold the address. -/
theorem hostAccessReachesOneWindow : Obligations.HostAccessReachesOneWindow := by
  intro ps k p o dir size data hwf hk
  have hp : p.holds (p.base + o.toNat) = true := holds_base_add_offset p o
  apply List.ext_getElem?
  intro j
  rw [hostAccess, List.getElem?_map]
  by_cases hjk : k = j
  · subst hjk
    rw [List.getElem?_set_self', hk]
    simp [hp, accept_base_add_offset]
  · rw [List.getElem?_set_ne hjk]
    cases hj : ps[j]? with
    | none => rfl
    | some q =>
      have hq : ¬ q.holds (p.base + o.toNat) = true :=
        not_holds_of_disjoint (disjoint_of_platformWf hwf hjk hk hj) hp
      simp [hq]

end Sys2Proof.Machine
end

section
/-! The two formats: the fields of a packed TXN, the decoder on the bits of a TXN, and the encoder as its inverse up to the
ignored data bits. -/

namespace Sys2Proof

open Sys2Proof.Machine

/-! ## The fields of a packed TXN -/

section Fields

variable (dir : Bool) (size : BitVec 2) (off : Offset) (data : Word)

@[simp] theorem txnRsv_packTxn : txnRsv (packTxn dir size off data) = 0 := by
  apply BitVec.eq_of_getLsbD_eq
  intro i hi
  rw [txnRsv, BitVec.getLsbD_extractLsb', packTxn_bit]
  simp (disch := omega) [if_neg, hi]

@[simp] theorem txnDir_packTxn : txnDir (packTxn dir size off data) = dir := by
  rw [txnDir, packTxn_bit]
  simp

@[simp] theorem txnSize_packTxn : txnSize (packTxn dir size off data) = size := by
  apply BitVec.eq_of_getLsbD_eq
  intro i hi
  rw [txnSize, BitVec.getLsbD_extractLsb', packTxn_bit, if_neg (by omega), if_neg (by omega), if_pos (by omega)]
  simp [hi, Nat.sub_sub]

@[simp] theorem txnOff_packTxn : txnOff (packTxn dir size off data) = off := by
  apply BitVec.eq_of_getLsbD_eq
  intro i hi
  rw [txnOff, BitVec.getLsbD_extractLsb', packTxn_bit, if_neg (by omega), if_pos (by omega)]
  simp [hi]

@[simp] theorem txnData_packTxn : txnData (packTxn dir size off data) = data := by
  apply BitVec.eq_of_getLsbD_eq
  intro i hi
  rw [txnData, BitVec.getLsbD_extractLsb', packTxn_bit, if_pos (by omega)]
  simp [hi]

/-- The layout as shifts (R53). -/
theorem packTxn_eq_shifts :
    packTxn dir size off data =
      ((BitVec.ofBool dir).setWidth 64 <<< 42) ||| (size.setWidth 64 <<< 40) ||| (off.setWidth 64 <<< 32) |||
        data.setWidth 64 := by
  apply BitVec.eq_of_getLsbD_eq
  intro i hi
  rw [packTxn_bit]
  interval_cases i <;> simp

/-- Clearing bits of DATA leaves the other fields alone (R53). -/
theorem packTxn_and_dataMask (m : Word) :
    packTxn dir size off data &&& (BitVec.allOnes 32 ++ m) = packTxn dir size off (data &&& m) := by
  refine BitVec.and_append.trans ?_
  rw [BitVec.and_allOnes]
  rfl

end Fields

/-- A TXN whose RSV is zero is its other four fields. -/
theorem packTxn_fields {t : Txn} (h : txnRsv t = 0) :
    packTxn (txnDir t) (txnSize t) (txnOff t) (txnData t) = t := by
  apply BitVec.eq_of_getLsbD_eq
  intro i hi
  rw [packTxn_bit]
  split_ifs with h₁ h₂ h₃ h₄
  · simp [txnData, h₁]
  · simp [txnOff, h₂, show 32 + (i - 32) = i by omega]
  · simp [txnSize, h₃, show 40 + (i - 32 - 8) = i by omega]
  · obtain rfl : i = 42 := by omega
    simp [txnDir]
  · have hbit : (txnRsv t).getLsbD (i - 43) = false := by simp [h]
    rw [txnRsv, BitVec.getLsbD_extractLsb', show 43 + (i - 43) = i by omega] at hbit
    simpa [show i - 43 < 21 by omega] using hbit.symm

/-! ## The decoder on the bits of a TXN (R54) -/

/-- SZ is bits 41 and 40 (R53). -/
theorem txnSize_eq_bits (t : Txn) :
    txnSize t = BitVec.ofBool (t.getLsbD 41) ++ BitVec.ofBool (t.getLsbD 40) := by
  apply BitVec.eq_of_getLsbD_eq
  intro i hi
  rw [txnSize, BitVec.getLsbD_extractLsb', BitVec.getLsbD_append]
  interval_cases i <;> simp

/-- Neither size of R54 has bit 40 set. -/
theorem bit40_of_decodeTxn_ok {t : Txn} {i : Instr} (h : decodeTxn t = .ok i) : t.getLsbD 40 = false := by
  have hbit : t.getLsbD 40 = (txnSize t).getLsbD 0 := by simp [txnSize]
  obtain ⟨-, ⟨hs, -⟩ | ⟨hs, -⟩ | ⟨hs, -⟩ | ⟨hs, -⟩⟩ := decodeTxn_cases h <;> rw [hbit, hs] <;> rfl

/-- RESERVED is the only reason for refusing a transaction that does not decode (R54). -/
theorem busErrorOfDecode_eq_reserved (e : DecodeError) : busErrorOfDecode e = .reserved := by
  cases e <;> rfl

/-- A descriptor that R54 reserves decodes to no instruction. -/
theorem decodeTxn_of_reserved {t : Txn} (h : t.extractLsb 63 43 ≠ 0 ∨ t.getLsbD 40 = true) :
    ∃ e, decodeTxn t = .error e ∧ busErrorOfDecode e = .reserved := by
  cases hd : decodeTxn t with
  | error e => exact ⟨e, rfl, busErrorOfDecode_eq_reserved e⟩
  | ok i =>
    obtain hrsv | hsize := h
    · exact absurd (decodeTxn_cases hd).1 hrsv
    · rw [bit40_of_decodeTxn_ok hd] at hsize
      cases hsize

/-! ## The encoder and the decoder -/

/-- The DATA bits an instruction's encoding uses (R55). -/
def usedDataBits : Instr → Word
  | .rd8 _ => 0
  | .rd32 _ => 0
  | .wr8 _ _ => 0xFF
  | .wr32 _ _ => BitVec.allOnes 32
  | .decode => BitVec.allOnes 32
  | .locate => BitVec.allOnes 32

theorem setWidth_extractLsb'_low (w : Word) : (w.extractLsb' 0 8).setWidth 32 = w &&& 0xFF := by
  apply BitVec.eq_of_getLsbD_eq
  intro i hi
  rw [BitVec.getLsbD_setWidth, BitVec.getLsbD_extractLsb', BitVec.getLsbD_and]
  interval_cases i <;> simp

theorem extractLsb'_setWidth_low (v : Byte) : (v.setWidth 32).extractLsb' 0 8 = v := by
  rw [BitVec.extractLsb'_setWidth_of_le (by decide), BitVec.extractLsb'_eq_self]

/-- Encoding what a TXN decodes to clears the DATA bits that are ignored, and no other bit (R55). -/
theorem encode_of_decodeTxn {t : Txn} {i : Instr} (h : decodeTxn t = .ok i) :
    encode i = .txn (t &&& (BitVec.allOnes 32 ++ usedDataBits i)) := by
  obtain ⟨hrsv, hcases⟩ := decodeTxn_cases h
  have ht : ∀ m, t &&& (BitVec.allOnes 32 ++ m) = packTxn (txnDir t) (txnSize t) (txnOff t) (txnData t &&& m) := by
    intro m
    rw [← packTxn_and_dataMask, packTxn_fields hrsv]
  rw [ht]
  obtain ⟨hs, hd, rfl⟩ | ⟨hs, hd, rfl⟩ | ⟨hs, hd, rfl⟩ | ⟨hs, hd, rfl⟩ := hcases <;> rw [hs, hd]
  · simp only [encode, usedDataBits, setWidth_extractLsb'_low]
  · simp [encode, usedDataBits]
  · simp only [encode, usedDataBits, BitVec.and_allOnes]
  · simp [encode, usedDataBits]

theorem encode_of_decodeCmd {w : Word} {i : Instr} (h : decodeCmd w = .ok i) : encode i = .cmd w := by
  obtain ⟨rfl, rfl⟩ | ⟨rfl, rfl⟩ := decodeCmd_cases h <;> rfl

section PackedDecoding

variable (off : Offset) (data : Word)

theorem decodeTxn_packTxn_rd8 : decodeTxn (packTxn false 0b00 off data) = .ok (.rd8 off) := by
  simp [decodeTxn]

theorem decodeTxn_packTxn_rd32 : decodeTxn (packTxn false 0b10 off data) = .ok (.rd32 off) := by
  simp [decodeTxn]

theorem decodeTxn_packTxn_wr8 : decodeTxn (packTxn true 0b00 off data) = .ok (.wr8 off (data.extractLsb' 0 8)) := by
  simp [decodeTxn]

theorem decodeTxn_packTxn_wr32 : decodeTxn (packTxn true 0b10 off data) = .ok (.wr32 off data) := by
  simp [decodeTxn]

end PackedDecoding

/-! ## The statements -/

/-- Settles O6: the fields of a packed TXN read back, and each command's word selects it. -/
theorem decodeEncodeRoundTrip : Obligations.DecodeEncodeRoundTrip := by
  intro i
  cases i with
  | rd8 off => exact decodeTxn_packTxn_rd8 off 0
  | rd32 off => exact decodeTxn_packTxn_rd32 off 0
  | wr8 off data =>
    have h := decodeTxn_packTxn_wr8 off (data.setWidth 32)
    rwa [extractLsb'_setWidth_low] at h
  | wr32 off data => exact decodeTxn_packTxn_wr32 off data
  | decode => rfl
  | locate => rfl

/-- A word that encodes an instruction decodes to it. -/
theorem decodeTxn_of_encode {t : Txn} {i : Instr} (h : encode i = .txn t) : decodeTxn t = .ok i := by
  have hround := decodeEncodeRoundTrip i
  rwa [h] at hround

/-- Settles O7: the masks of R55 are the used DATA bits of each form. -/
theorem encodeDecodeKeepsUsedBits : Obligations.EncodeDecodeKeepsUsedBits := by
  have hread : BitVec.allOnes 32 ++ (0 : Word) = (0xFFFFFFFF00000000 : Txn) := by decide
  have hbyte : BitVec.allOnes 32 ++ (0xFF : Word) = (0xFFFFFFFF000000FF : Txn) := by decide
  have hword : ∀ t : Txn, t &&& (BitVec.allOnes 32 ++ BitVec.allOnes 32) = t := fun t => BitVec.and_allOnes
  refine ⟨fun t off h => ?_, fun t off h => ?_, fun t off v h => ?_, fun t off v h => ?_,
    fun w i h => encode_of_decodeCmd h⟩
  · exact hread ▸ encode_of_decodeTxn h
  · exact hread ▸ encode_of_decodeTxn h
  · exact hbyte ▸ encode_of_decodeTxn h
  · exact (encode_of_decodeTxn h).trans (congrArg Item.txn (hword t))

/-- Settles O8: the layout and the fields of a packed TXN, one lemma each. -/
theorem txnFieldsLayout : Obligations.TxnFieldsLayout :=
  fun dir size off data =>
    ⟨packTxn_eq_shifts dir size off data, txnRsv_packTxn dir size off data, txnDir_packTxn dir size off data,
     txnSize_packTxn dir size off data, txnOff_packTxn dir size off data, txnData_packTxn dir size off data⟩

/-- Settles O9: a reserved descriptor does not decode; with RSV zero and bit 40 clear, bits 42 and 41 select the
instruction. -/
theorem txnDecoding : Obligations.TxnDecoding := by
  intro t
  refine ⟨fun h => decodeTxn_of_reserved (.inl h), fun h => decodeTxn_of_reserved (.inr h), fun h₄₃ h₄₀ => ?_⟩
  have hrsv : txnRsv t = 0 := h₄₃
  have hsize : txnSize t = BitVec.ofBool (t.getLsbD 41) ++ BitVec.ofBool false := h₄₀ ▸ txnSize_eq_bits t
  have hbyte : (txnData t).extractLsb' 0 8 = t.extractLsb 7 0 := BitVec.extractLsb'_extractLsb'_of_le (by decide)
  obtain h₄₂ | h₄₂ := (t.getLsbD 42).eq_false_or_eq_true <;> obtain h₄₁ | h₄₁ := (t.getLsbD 41).eq_false_or_eq_true <;>
    simp only [decodeTxn, hrsv, hsize, txnDir, hbyte, h₄₂, h₄₁] <;> rfl

/-- Settles O10: the seven instructions of R61 encode to their words, by computation, and so the words decode to them. -/
theorem workedEncodings : Obligations.WorkedEncodings := by
  have h₁ : encode (.wr32 0x24 0x00000001) = .txn 0x0000062400000001 := by decide
  have h₂ : encode (.wr32 0x24 0x00000002) = .txn 0x0000062400000002 := by decide
  have h₃ : encode (.rd32 0x28) = .txn 0x0000022800000000 := by decide
  have h₄ : encode (.wr8 0x08 0x01) = .txn 0x0000040800000001 := by decide
  have h₅ : encode (.rd8 0x80) = .txn 0x0000008000000000 := by decide
  have h₆ : encode (.wr32 0x20 0x00002010) = .txn 0x0000062000002010 := by decide
  have h₇ : encode (.rd32 0x2C) = .txn 0x0000022C00000000 := by decide
  exact ⟨decodeTxn_of_encode h₁, h₁, decodeTxn_of_encode h₂, h₂, decodeTxn_of_encode h₃, h₃, decodeTxn_of_encode h₄, h₄,
    decodeTxn_of_encode h₅, h₅, decodeTxn_of_encode h₆, h₆, decodeTxn_of_encode h₇, h₇⟩

end Sys2Proof
end

section
/-! The commands: the transaction that carries a CMD word, the step that runs a placed word, and the frame of each command
in the bytes of the window. -/

namespace Sys2Proof.Machine

open Sys2Proof.Statements

/-! ## The WR32 to CMD -/

/-- A WR32 to CMD passes its checks and runs the command its word selects (R56, R89). -/
theorem wr32_cmd_completes (w : Word) (s : State) :
    CompletesWith (.wr32 0x24 w) s (runCommandWord w s.block) .done :=
  exec_ok (i := .wr32 0x24 w) ((busCheck_write_four _).2 (by decide)) s

theorem runCommandWord_illegal {w : Word} (hd : w ≠ cmdDecodeWord) (hl : w ≠ cmdLocateWord) (b : Block) :
    runCommandWord w b = illegalCommand b := by
  rw [runCommandWord, if_neg hd, if_neg hl]

/-- A command is the WR32 to CMD of its word (R52, R56). -/
theorem exec_wr32_of_decodeCmd {w : Word} {i : Instr} (h : decodeCmd w = .ok i) (s : State) :
    exec (.wr32 0x24 w) s = exec i s := by
  rw [wr32_cmd_completes]
  obtain ⟨rfl, rfl⟩ | ⟨rfl, rfl⟩ := decodeCmd_cases h <;> rfl

/-! ## The word placed at the port -/

/-- The transaction that carries an item decodes to one that does what the item's instruction does (R61). -/
theorem carrier_decodes {item : Item} {i : Instr} (h : decodeItem item = .ok i) :
    ∃ j, decodeTxn (carrier item) = .ok j ∧ ∀ s, exec j s = exec i s := by
  cases item with
  | txn t => exact ⟨i, h, fun _ => rfl⟩
  | cmd w => exact ⟨_, decodeTxn_packTxn_wr32 _ w, exec_wr32_of_decodeCmd h⟩

theorem decodeTableWord_eq_some {nbits w : Nat} {i : Instr} (h : decodeTableWord nbits w = some i) :
    ∃ item, itemOfTableWord nbits w = some item ∧ decodeItem item = .ok i := by
  cases hitem : itemOfTableWord nbits w with
  | none => simp [decodeTableWord, hitem] at h
  | some item =>
    cases hd : decodeItem item with
    | error e => simp [decodeTableWord, hitem, hd] at h
    | ok j =>
      obtain rfl : j = i := by simpa [decodeTableWord, hitem, hd] using h
      exact ⟨item, rfl, hd⟩

/-! ## The bytes of STATUS -/

/-- Byte 0 of STATUS holds RV and GV alone (R28). -/
theorem getByte_statusWord_zero (b : Block) :
    getByte (statusWord b) 0 = (0 : BitVec 6) ++ BitVec.ofBool b.rv ++ BitVec.ofBool b.gv := by
  apply BitVec.eq_of_getLsbD_eq
  intro i hi
  rw [getByte, BitVec.getLsbD_extractLsb', statusWord_bit, BitVec.getLsbD_append, BitVec.getLsbD_append]
  interval_cases i <;> simp

/-- The upper half of STATUS reads as zero (R28). -/
theorem getByte_statusWord_upper (b : Block) {k : Nat} (hk : 2 ≤ k) : getByte (statusWord b) k = 0 := by
  apply BitVec.eq_of_getLsbD_eq
  intro i hi
  rw [getByte, BitVec.getLsbD_extractLsb', statusWord_bit]
  simp (disch := omega) only [if_neg]
  simp

/-- Every byte of STATUS but the one of ERR is a view of GV and RV alone (R28). -/
theorem getByte_statusWord_congr {b b' : Block} (hgv : b'.gv = b.gv) (hrv : b'.rv = b.rv) {k : Nat} (hk : k ≠ 1) :
    getByte (statusWord b') k = getByte (statusWord b) k := by
  cases k with
  | zero => rw [getByte_statusWord_zero, getByte_statusWord_zero, hgv, hrv]
  | succ k => rw [getByte_statusWord_upper _ (by omega), getByte_statusWord_upper _ (by omega)]

/-! ## The frame -/

/-- The registers that a byte of the window is a view of, by the ranges of R32 (R87). -/
theorem byteView_congr {b b' : Block} {o : Nat} (hrec : b'.record = b.record) (hhdr : b'.hdr = b.hdr)
    (himg : b'.imgLen = b.imgLen)
    (hstatus : 0x28 ≤ o → o < 0x2C → getByte (statusWord b') (o - 0x28) = getByte (statusWord b) (o - 0x28))
    (hregion : 0x2C ≤ o → o < 0x38 → b'.offset = b.offset ∧ b'.length = b.length ∧ b'.tiles = b.tiles)
    (hgrid : 0x40 ≤ o → o < 0xC0 → b'.grid = b.grid) : byteView b' o = byteView b o := by
  unfold byteView
  rw [hrec, hhdr, himg]
  refine dite_congr rfl (fun _ => rfl) fun _ => dite_congr rfl (fun _ => rfl) fun _ =>
    ite_congr rfl (fun _ => rfl) fun _ => ite_congr rfl (fun _ => rfl) fun _ => ?_
  refine ite_congr rfl (fun _ => hstatus (by omega) ‹_›) fun _ => ?_
  by_cases ho : o < 0x38
  · obtain ⟨hoffset, hlength, htiles⟩ := hregion (by omega) ho
    simp only [hoffset, hlength, htiles, ho, if_true]
  by_cases ho' : 0x40 ≤ o ∧ o < 0xC0
  · simp (disch := omega) only [if_neg, hgrid]
  · simp (disch := omega) only [if_neg]

/-- DECODE writes STATUS and GRID alone (R82). -/
theorem byteView_runDecode (b : Block) {o : Nat} (h₀ : o ≠ 0x28) (h₁ : o ≠ 0x29) (hgrid : ¬ (0x40 ≤ o ∧ o < 0xC0)) :
    byteView (runDecode b) o = byteView b o := by
  refine byteView_congr rfl rfl rfl (fun _ _ => ?_) (fun _ _ => ⟨rfl, rfl, rfl⟩) (fun _ _ => absurd ⟨‹_›, ‹_›⟩ hgrid)
  rw [getByte_statusWord_upper _ (by omega), getByte_statusWord_upper _ (by omega)]

/-- LOCATE writes STATUS, OFFSET, LENGTH and TILES alone (R72). -/
theorem byteView_runLocate (b : Block) {o : Nat} (h₀ : o ≠ 0x28) (h₁ : o ≠ 0x29) (hregion : ¬ (0x2C ≤ o ∧ o < 0x38)) :
    byteView (runLocate b) o = byteView b o := by
  refine byteView_congr (runLocate_record b) (runLocate_hdr b) (runLocate_imgLen b) (fun _ _ => ?_)
    (fun _ _ => absurd ⟨‹_›, ‹_›⟩ hregion) (fun _ _ => runLocate_grid b)
  rw [getByte_statusWord_upper _ (by omega), getByte_statusWord_upper _ (by omega)]

/-- An illegal word writes ERR alone (R56). -/
theorem byteView_illegalCommand (b : Block) {o : Nat} (h : o ≠ 0x29) :
    byteView (illegalCommand b) o = byteView b o :=
  byteView_congr rfl rfl rfl (fun _ _ => getByte_statusWord_congr (illegalCommand_gv b) (illegalCommand_rv b) (by omega))
    (fun _ _ => ⟨rfl, rfl, rfl⟩) (fun _ _ => rfl)

/-! ## The statements -/

/-- Settles O12: the item's carrier is the next transaction, and it does what the item's instruction does. -/
theorem placedWordRunsNext : Obligations.PlacedWordRunsNext := by
  intro s nbits w i he h
  obtain ⟨item, hitem, hd⟩ := decodeTableWord_eq_some h
  obtain ⟨j, hj, hrun⟩ := carrier_decodes hd
  have hplaced : s.withFetchWord nbits w = putFirst (.txn (carrier item)) s := by simp [State.withFetchWord, hitem]
  rw [hplaced, step_txn_of_decode_ok (putFirst_inbox _ s) he hj]
  exact hrun s

/-- Settles O13: a reserved descriptor does not decode, and the step of such a one refuses it as RESERVED. -/
theorem reservedTxnChangesNothing : Obligations.ReservedTxnChangesNothing := by
  intro s w q hq he hw
  obtain ⟨e, hd, hreason⟩ := decodeTxn_of_reserved hw
  rw [step_txn_of_decode_error hq he hd, hreason]
  rfl

/-- Settles O33: each of the two words decodes to its command, and every other word is illegal. -/
theorem commandWordSelectsCommand : Obligations.CommandWordSelectsCommand := by
  intro s w
  refine ⟨exec_wr32_of_decodeCmd rfl s, exec_wr32_of_decodeCmd rfl s, fun hd hl => ?_⟩
  have h := wr32_cmd_completes w s
  rwa [runCommandWord_illegal hd hl] at h

/-- Settles O44: the frame of each command's change. -/
theorem commandFrame : Obligations.CommandFrame := by
  intro s t o
  have hdecode : exec .decode s = .next t → t.block = runDecode s.block := by rintro ⟨⟩; rfl
  have hlocate : exec .locate s = .next t → t.block = runLocate s.block := by rintro ⟨⟩; rfl
  refine ⟨fun h => ?_, fun h => ?_, fun h => ?_, fun h => ?_, fun w hd hl h => ?_⟩
  · exact hdecode h ▸ byteView_runDecode s.block
  · exact hdecode h ▸ runDecode_rv s.block
  · exact hlocate h ▸ byteView_runLocate s.block
  · exact hlocate h ▸ runLocate_gv s.block
  · rw [wr32_cmd_completes, runCommandWord_illegal hd hl] at h
    cases h
    exact byteView_illegalCommand s.block

end Sys2Proof.Machine
end

section
/-! The region locator: its checks and values from the header bytes, and what repeating a command does. -/

namespace Sys2Proof.Machine

open Sys2Proof.Statements

/-! ## The inputs in the header bytes -/

/-- A header without graphics units is one whose byte 5 is zero (R62). -/
theorem chrUnits_eq_zero_iff (hdr : Bytes16) : chrUnits hdr = 0 ↔ hdr[5] = 0 :=
  (BitVec.toNat_eq (x := hdr[5]) (y := 0)).symm

/-- The trainer flag as the mask of bit 2 (R65). -/
theorem trainer_iff_and_ne_zero (hdr : Bytes16) : trainer hdr = true ↔ hdr[6] &&& 0b00000100 ≠ 0 := by
  have hmask : hdr[6] &&& (0b00000100 : Byte) = if trainer hdr then BitVec.twoPow 8 2 else 0 :=
    BitVec.and_twoPow hdr[6] 2
  rw [hmask]
  cases trainer hdr <;> decide

theorem regionOffset_of_no_trainer {hdr : Bytes16} (h : hdr[6].getLsbD 2 = false) :
    regionOffset hdr = 16 + 16384 * hdr[4].toNat := by
  rw [regionOffset, show trainer hdr = false from h]
  rfl

theorem regionOffset_of_trainer {hdr : Bytes16} (h : hdr[6].getLsbD 2 = true) :
    regionOffset hdr = 16 + 16384 * hdr[4].toNat + 512 := by
  rw [regionOffset, show trainer hdr = true from h]
  rfl

theorem regionOffset_eq (hdr : Bytes16) :
    regionOffset hdr = 16 + 16384 * hdr[4].toNat + (if hdr[6] &&& 0b00000100 ≠ 0 then 512 else 0) := by
  simp only [regionOffset, trainer_iff_and_ne_zero]
  rfl

theorem regionLength_eq (hdr : Bytes16) : regionLength hdr = 8192 * hdr[5].toNat := rfl

/-! ## The checks of R69, one by one -/

section Checks
variable {hdr : Bytes16} {imgLen : Word}

theorem locateRegion_of_no_header (h : imgLen.toNat < 16) : locateRegion hdr imgLen = .err errTruncatedInput :=
  if_pos h

theorem locateRegion_of_no_graphics (h₁ : 16 ≤ imgLen.toNat) (h₂ : hdr[5] = 0) :
    locateRegion hdr imgLen = .err errMissingGraphicsRom := by
  rw [locateRegion, if_neg (Nat.not_lt.2 h₁), if_pos ((chrUnits_eq_zero_iff hdr).2 h₂)]

theorem locateRegion_of_beyond_end (h₁ : 16 ≤ imgLen.toNat) (h₂ : hdr[5] ≠ 0)
    (h₃ : imgLen.toNat < regionOffset hdr + regionLength hdr) :
    locateRegion hdr imgLen = .err errTruncatedInput := by
  rw [locateRegion, if_neg (Nat.not_lt.2 h₁), if_neg (mt (chrUnits_eq_zero_iff hdr).1 h₂), if_pos h₃]

theorem locateRegion_of_fits (h₁ : 16 ≤ imgLen.toNat) (h₂ : hdr[5] ≠ 0)
    (h₃ : regionOffset hdr + regionLength hdr ≤ imgLen.toNat) :
    locateRegion hdr imgLen = .ok (regionOffset hdr) (regionLength hdr) (regionTiles hdr) :=
  locateRegion_ok_iff.2 ⟨h₁, mt (chrUnits_eq_zero_iff hdr).1 h₂, h₃, rfl, rfl, rfl⟩

end Checks

/-- The locator reads the header through its three fields alone (R70). -/
theorem locateRegion_congr {hdr hdr' : Bytes16} (hprg : prgUnits hdr = prgUnits hdr')
    (hchr : chrUnits hdr = chrUnits hdr') (htrainer : trainer hdr = trainer hdr') (imgLen : Word) :
    locateRegion hdr imgLen = locateRegion hdr' imgLen := by
  have hoffset : regionOffset hdr = regionOffset hdr' := by rw [regionOffset, regionOffset, hprg, htrainer]
  have hlength : regionLength hdr = regionLength hdr' := by rw [regionLength, regionLength, hchr]
  have htiles : regionTiles hdr = regionTiles hdr' := by rw [regionTiles, regionTiles, hlength]
  rw [locateRegion, locateRegion, hchr, hoffset, hlength, htiles]

/-! ## A command repeated -/

/-- DECODE leaves the record it reads as it was (R82). -/
theorem runDecode_runDecode (b : Block) : runDecode (runDecode b) = runDecode b := rfl

/-- LOCATE leaves its inputs as they were, so it finds the same result again and writes the same registers (R72). -/
theorem runLocate_runLocate (b : Block) : runLocate (runLocate b) = runLocate b := by
  have hinputs : locateRegion (runLocate b).hdr (runLocate b).imgLen = locateRegion b.hdr b.imgLen := by
    rw [runLocate_hdr, runLocate_imgLen]
  cases h : locateRegion b.hdr b.imgLen with
  | ok o l t => rw [runLocate_ok (hinputs.trans h), runLocate_ok h]
  | err c => rw [runLocate_err (hinputs.trans h), runLocate_err h]

/-- The registers after a transaction that has no check to fail. -/
theorem block_of_exec {i : Instr} (hc : checkOf i = none) {s t : State} (h : exec i s = .next t) :
    t.block = effectOf i s.block := by
  rw [exec_ok hc] at h
  cases h
  rfl

/-- LOCATE, by itself or by its word, runs the locator on the registers (R72, R89). -/
theorem locate_completes (s : State) {i : Instr} (hi : i = .locate ∨ i = .wr32 0x24 0x00000002) :
    CompletesWith i s (runLocate s.block) .done := by
  obtain rfl | rfl := hi
  · rfl
  · exact wr32_cmd_completes cmdLocateWord s

/-! ## The statements -/

/-- Settles O39: one equation of the locator per clause. -/
theorem locateRegionByHeaderBytes : Obligations.LocateRegionByHeaderBytes := by
  intro hdr imgLen
  rw [← regionOffset_eq, ← regionLength_eq]
  exact ⟨locateRegion_of_no_header, locateRegion_of_no_graphics, locateRegion_of_beyond_end, locateRegion_of_fits⟩

/-- Settles O40: the bounds of a located region, which the largest header bytes attain. -/
theorem locateResultFitsRegisters : Obligations.LocateResultFitsRegisters := by
  refine ⟨fun hdr imgLen o l t h => ?_, fun hdr hprg hchr htrainer => ?_⟩
  · obtain ⟨-, ho, -, -, hl, ht⟩ := locateRegion_ok_bounds h
    exact ⟨ho, hl, by omega, by omega, ht, locateRegion_ok_toNat h⟩
  · have ho : regionOffset hdr = 4178448 := by rw [regionOffset_of_trainer htrainer, hprg]; rfl
    have hl : regionLength hdr = 2088960 := by rw [regionLength_eq, hchr]; rfl
    have ht : regionTiles hdr = 130560 := by rw [regionTiles, hl]; rfl
    have hfits : regionOffset hdr + regionLength hdr ≤ (0xFFFFFFFF : Word).toNat := by rw [ho, hl]; decide
    rw [locateRegion_of_fits (by decide) (by rw [hchr]; decide) hfits, ho, hl, ht]

/-- Settles O41: each of the locator's three header fields is a function of its own byte, the trainer flag of its bit. -/
theorem locateReadsFourInputsOnly : Obligations.LocateReadsFourInputsOnly :=
  fun _ _ imgLen hprg hchr htrainer =>
    locateRegion_congr (congrArg BitVec.toNat hprg) (congrArg BitVec.toNat hchr) htrainer imgLen

/-- Settles O42: the second check, and the offset and length of a located region. -/
theorem locateSourceProperties : Obligations.LocateSourceProperties := by
  refine fun hdr imgLen hlen => ⟨locateRegion_of_no_graphics hlen, fun o l t h => ?_⟩
  obtain ⟨-, -, -, rfl, rfl, -⟩ := locateRegion_ok_iff.1 h
  exact ⟨regionOffset_of_no_trainer, regionOffset_of_trainer, regionLength_eq hdr⟩

/-- Settles O45: neither command writes what it reads. -/
theorem repeatedCommandsGiveTheSameResult : Obligations.RepeatedCommandsGiveTheSameResult := by
  rintro s t u i (rfl | rfl) ht hu
  · rw [block_of_exec rfl hu, block_of_exec rfl ht]
    exact runDecode_runDecode s.block
  · rw [block_of_exec rfl hu, block_of_exec rfl ht]
    exact runLocate_runLocate s.block

/-- Settles O38: the registers LOCATE leaves, by the locator's result. -/
theorem locateCommandResult : Obligations.LocateCommandResult := by
  intro s i hi
  refine ⟨fun o l t h => ?_, fun c h => ?_⟩
  · rw [← runLocate_ok h]
    exact locate_completes s hi
  · rw [← runLocate_err h]
    exact locate_completes s hi

end Sys2Proof.Machine
end

section
/-! The bitplane unpacker bit by bit: a byte is the sum of its bits shifted to their places, and each bit of a cell is one
bit of the record. -/

namespace Sys2Proof.Machine

open Sys2Proof.Statements

/-! ## Bits as numbers -/

theorem getLsbD_toNat {w : Nat} (v : BitVec w) (i : Nat) : (v.getLsbD i).toNat = (v.toNat >>> i) &&& 1 := by
  rw [BitVec.getLsbD, Nat.toNat_testBit, Nat.shiftRight_eq_div_pow, Nat.and_one_is_mod]

theorem pixel_toNat_shiftRight_one (c : Pixel) : c.toNat >>> 1 = (c.getLsbD 1).toNat := by
  rw [getLsbD_toNat, Nat.and_one_is_mod, Nat.shiftRight_eq_div_pow, Nat.mod_eq_of_lt (by omega)]

/-- R83's sum over the columns is the number with those bits. -/
theorem sum_shiftLeft_eq_ofBits {n : Nat} (f : Fin n → Bool) :
    ((List.finRange n).map fun x => (f x).toNat <<< x.val).sum = Nat.ofBits f := by
  induction n with
  | zero => rfl
  | succ n ih =>
    have hstep : ∀ x : Fin n, (f x.succ).toNat <<< x.succ.val = 2 * (f x.succ).toNat <<< x.val := fun x => by
      rw [Fin.val_succ, Nat.shiftLeft_succ]
    rw [List.finRange_succ, List.map_cons, List.map_map, List.sum_cons, Nat.ofBits_succ, ← ih (f ∘ Fin.succ),
      ← List.sum_map_mul_left, Nat.add_comm]
    simp only [Function.comp_def, hstep, Fin.val_zero, Nat.shiftLeft_zero]

/-- A byte is R83's sum of its own bits. -/
theorem byte_eq_sum_bits (v : Byte) :
    v.toNat = ((List.finRange 8).map fun x : Fin 8 => (v.getLsbD x).toNat <<< x.val).sum := by
  rw [sum_shiftLeft_eq_ofBits]
  exact ((Nat.ofBits_testBit v.toNat 8).trans (Nat.mod_eq_of_lt v.isLt)).symm

/-! ## The bits of cells and of records -/

/-- A bit of a cell is a bit of the record byte of its row in that plane: plane A for bit 0, plane B for bit 1 (R74 to
R76). -/
theorem tileCell_plane (r : Bytes16) (y x : Fin 8) (p : Fin 2) :
    (tileCell r y x).getLsbD p = recordBit r ⟨y + 8 * p, by omega⟩ x := by
  match p with
  | 0 => exact tileCell_low r y x
  | 1 => exact tileCell_high r y x

/-- A cell as the number R76 makes of its two bits. -/
theorem tileCell_toNat (r : Bytes16) (y x : Fin 8) :
    (tileCell r y x).toNat =
      (recordBit r ⟨y + 8, by omega⟩ x).toNat <<< 1 ||| (recordBit r ⟨y, by omega⟩ x).toNat := by
  have hbits : ∀ c : Pixel, c.toNat = (c.getLsbD 1).toNat <<< 1 ||| (c.getLsbD 0).toNat := by decide
  rw [hbits, tileCell_high, tileCell_low]

/-- Lane (y, x) reads two bits of the record alone (R79). -/
theorem tileCell_congr {r r' : Bytes16} {y x : Fin 8}
    (hlow : recordBit r ⟨y, by omega⟩ x = recordBit r' ⟨y, by omega⟩ x)
    (hhigh : recordBit r ⟨y + 8, by omega⟩ x = recordBit r' ⟨y + 8, by omega⟩ x) :
    tileCell r y x = tileCell r' y x := by
  rw [tileCell, tileCell, hlow, hhigh]

theorem recordBit_set_ne {r : Bytes16} {i j : Fin 16} (h : i ≠ j) (v : Byte) (x : Fin 8) :
    recordBit (r.set i v) j x = recordBit r j x :=
  congrArg (BitVec.getLsbD · x) (Vector.getElem_set_ne i.isLt j.isLt (Fin.val_ne_of_ne h))

/-- Two records with the same bits are one record. -/
theorem bytes16_ext_bits {r r' : Bytes16} (h : ∀ (i : Fin 16) (x : Fin 8), recordBit r i x = recordBit r' i x) :
    r = r' :=
  bytes16_ext fun i => BitVec.eq_of_getLsbD_eq fun x hx => h i ⟨x, hx⟩

/-! ## The inverse (R83) -/

/-- The plane byte's bits are those of the row's cells. -/
theorem getLsbD_planeByte (row : Vector Pixel 8) (p : Nat) (x : Fin 8) :
    (planeByte row p).getLsbD x = row[x].getLsbD p := by
  rw [planeByte, sum_shiftLeft_eq_ofBits fun x : Fin 8 => row[x].getLsbD p, BitVec.getLsbD_ofNat,
    Nat.testBit_ofBits_lt _ _ x.isLt, decide_eq_true x.isLt, Bool.true_and]

theorem recordBit_recordOfGrid (g : Grid) (i : Fin 16) (x : Fin 8) :
    recordBit (recordOfGrid g) i x = g[i.val % 8][x].getLsbD (i.val / 8) := by
  have hbyte : (recordOfGrid g)[i] = planeByte g[i.val % 8] (i.val / 8) := by simp [recordOfGrid]
  rw [recordBit, hbyte, getLsbD_planeByte]

theorem recordOfGrid_decodeTile (r : Bytes16) : recordOfGrid (decodeTile r) = r := by
  refine bytes16_ext_bits fun i x => ?_
  have hcell : (decodeTile r)[i.val % 8][x] = tileCell r ⟨i % 8, by omega⟩ x := decodeTile_cell r ⟨i % 8, by omega⟩ x
  have hi : (⟨i % 8 + 8 * (i / 8), by omega⟩ : Fin 16) = i := Fin.ext (Nat.mod_add_div i 8)
  rw [recordBit_recordOfGrid, hcell, tileCell_plane r _ x ⟨i / 8, by omega⟩]
  exact congrArg (recordBit r · x) hi

theorem decodeTile_recordOfGrid (g : Grid) : decodeTile (recordOfGrid g) = g := by
  refine grid_ext fun y x => BitVec.eq_of_getLsbD_eq fun p hp => ?_
  have hrow : (y + 8 * p) % 8 = y := by omega
  have hplane : (y + 8 * p) / 8 = p := by omega
  rw [decodeTile_cell, tileCell_plane _ y x ⟨p, hp⟩, recordBit_recordOfGrid]
  simp only [hrow, hplane, Fin.getElem_fin]

/-- A record byte is R83's sum of its plane's bits in the cells of its row. -/
theorem recordByte_eq_sum (r : Bytes16) (y : Fin 8) (p : Fin 2) :
    (r[y.val + 8 * p.val]).toNat =
      ((List.finRange 8).map fun x => ((decodeTile r)[y][x].getLsbD p).toNat <<< x.val).sum := by
  simp only [decodeTile_cell, tileCell_plane]
  exact byte_eq_sum_bits _

/-! ## The statements -/

/-- Settles O35: the two bits of a cell, each as a shifted and masked record byte. -/
theorem tileCellCombinesPlanes : Obligations.TileCellCombinesPlanes := by
  intro r y x
  rw [decodeTile_cell, tileCell_toNat, recordBit, recordBit, getLsbD_toNat, getLsbD_toNat]
  rfl

/-- Settles O36: the two functions undo each other bit by bit, and a plane byte is the sum of its bits. -/
theorem tileUnpackingIsBijective : Obligations.TileUnpackingIsBijective := by
  refine ⟨fun g => ⟨recordOfGrid g, decodeTile_recordOfGrid g⟩, fun r y => ⟨?_, ?_⟩, recordOfGrid_decodeTile,
    decodeTile_recordOfGrid⟩
  · have hlow : ∀ c : Pixel, c.toNat &&& 1 = (c.getLsbD 0).toNat := fun c => (getLsbD_toNat c 0).symm
    simp only [hlow]
    exact recordByte_eq_sum r y 0
  · simp only [pixel_toNat_shiftRight_one]
    exact recordByte_eq_sum r y 1

/-- Settles O37: a lane reads its two bits alone, and a byte of another row holds neither of them. -/
theorem tileLanesIndependent : Obligations.TileLanesIndependent := by
  refine ⟨fun r r' y x hlow hhigh => ?_, fun r i v y hi => Vector.ext fun x hx => ?_⟩
  · rw [decodeTile_cell, decodeTile_cell]
    exact tileCell_congr hlow hhigh
  · have hlow : i ≠ ⟨y, by omega⟩ := by grind
    have hhigh : i ≠ ⟨y + 8, by omega⟩ := by grind
    have hset : tileCell (r.set i v) y ⟨x, hx⟩ = tileCell r y ⟨x, hx⟩ :=
      tileCell_congr (recordBit_set_ne hlow v _) (recordBit_set_ne hhigh v _)
    rw [← decodeTile_cell, ← decodeTile_cell] at hset
    exact hset

/-- Settles O34: DECODE, by itself or by its word, runs the unpacker on the registers. -/
theorem decodeCommandResult : Obligations.DecodeCommandResult := by
  rintro s i (rfl | rfl)
  · rfl
  · exact wr32_cmd_completes cmdDecodeWord s

end Sys2Proof.Machine
end


section
/-! The access checks and the data writes: the reason each refused access gets, the byte view register by register, what a
write stores, and its frame. -/

namespace Sys2Proof.Machine

open Sys2Proof.Statements

/-! ## The access checks (R84) -/

theorem inUnmapped_iff (o : Nat) : inUnmapped o = true ↔ Unmapped o := by
  simp [inUnmapped, or_assoc]

theorem inReadOnly_iff (o : Nat) : inReadOnly o = true ↔ ReadOnly o := by
  simp [inReadOnly, or_assoc]

/-- The unmapped ranges begin and end at multiples of 4, so an access that passes the alignment check touches one exactly
when its offset lies in one (R32). -/
theorem touchesUnmapped_iff {width : Width} {o : Nat} (ha : width = .four → o % 4 = 0) :
    touchesUnmapped width o = true ↔ Unmapped o := by
  simp only [touchesUnmapped, List.any_eq_true, List.mem_range, inUnmapped_iff]
  constructor
  · rintro ⟨i, hi, h⟩
    cases width with
    | one =>
      obtain rfl : i = 0 := Nat.lt_one_iff.1 hi
      exact h
    | four =>
      have hmod : o % 4 = 0 := ha rfl
      have hlt : i < 4 := hi
      omega
  · exact fun h => ⟨0, by cases width <;> decide, h⟩

/-- Checks 3 to 5, for an access that passes the alignment check. -/
theorem busCheck_of_aligned {dir : Dir} {width : Width} {off : Offset} (ha : width = .four → off.toNat % 4 = 0) :
    busCheck dir width off =
      if Unmapped off.toNat then some .unmapped
      else if width = .one ∧ inCmd off.toNat then some .width
      else if dir = .write ∧ ReadOnly off.toNat then some .readOnly
      else none := by
  rw [busCheck, if_neg (by tauto)]
  simp only [touchesUnmapped_iff ha, inReadOnly_iff]

theorem busCheck_unmapped {dir : Dir} {width : Width} {off : Offset} (ha : width = .four → off.toNat % 4 = 0)
    (h : Unmapped off.toNat) : busCheck dir width off = some .unmapped := by
  rw [busCheck_of_aligned ha, if_pos h]

theorem busCheck_cmd {dir : Dir} {off : Offset} (h₁ : 0x24 ≤ off.toNat) (h₂ : off.toNat ≤ 0x27) :
    busCheck dir .one off = some .width := by
  have hcmd : inCmd off.toNat = true := by simp [inCmd, h₁, h₂]
  rw [busCheck_of_aligned (by simp), if_neg (by omega), if_pos ⟨rfl, hcmd⟩]

theorem busCheck_readOnly {width : Width} {off : Offset} (ha : width = .four → off.toNat % 4 = 0)
    (h : ReadOnly off.toNat) : busCheck .write width off = some .readOnly := by
  have hcmd : ¬ inCmd off.toNat = true := by simp [inCmd]; omega
  rw [busCheck_of_aligned ha, if_neg (by omega), if_neg (by tauto), if_pos ⟨rfl, h⟩]

/-! ## The byte view, register by register (R87) -/

theorem byteView_record (b : Block) (i : Fin 16) : byteView b i = b.record[i] := by
  rw [byteView, dif_pos i.isLt]
  rfl

theorem byteView_hdr (b : Block) (i : Fin 16) : byteView b (0x10 + i) = b.hdr[i] := by
  simp (disch := omega) only [byteView, dif_neg, dif_pos, Nat.add_sub_cancel_left]
  rfl

theorem byteView_imgLen (b : Block) (k : Fin 4) : byteView b (0x20 + k) = getByte b.imgLen k := by
  simp (disch := omega) only [byteView, dif_neg, if_pos, Nat.add_sub_cancel_left]

theorem byteView_status (b : Block) (k : Fin 4) : byteView b (0x28 + k) = getByte (statusWord b) k := by
  simp (disch := omega) only [byteView, dif_neg, if_neg, if_pos, Nat.add_sub_cancel_left]

theorem byteView_offset (b : Block) (k : Fin 4) : byteView b (0x2C + k) = getByte b.offset k := by
  simp (disch := omega) only [byteView, dif_neg, if_neg, if_pos, Nat.add_sub_cancel_left]

theorem byteView_length (b : Block) (k : Fin 4) : byteView b (0x30 + k) = getByte b.length k := by
  simp (disch := omega) only [byteView, dif_neg, if_neg, if_pos, Nat.add_sub_cancel_left]

theorem byteView_tiles (b : Block) (k : Fin 4) : byteView b (0x34 + k) = getByte b.tiles k := by
  simp (disch := omega) only [byteView, dif_neg, if_neg, if_pos, Nat.add_sub_cancel_left]

theorem getByte_eq_shift (w : Word) (k : Nat) : getByte w k = (w >>> (8 * k)).setWidth 8 := by
  ext i hi
  simp [getByte]

/-- Byte 1 of STATUS holds ERR in its low nibble (R28). -/
theorem getByte_statusWord_one (b : Block) : getByte (statusWord b) 1 = (0 : BitVec 4) ++ b.err := by
  apply BitVec.eq_of_getLsbD_eq
  intro i hi
  rw [getByte, BitVec.getLsbD_extractLsb', statusWord_bit, BitVec.getLsbD_append]
  interval_cases i <;> simp

/-- The cells of a packed byte, for a row and a half of the grid (R23). -/
theorem packedByte_eq (g : Grid) (y : Fin 8) (h : Fin 2) :
    packedByte g y h =
      g[y][4 * h.val + 3] ++ g[y][4 * h.val + 2] ++ g[y][4 * h.val + 1] ++ g[y][4 * h.val] := by
  have hcell : ∀ c (hc : c < 8), gridCell g y c = g[y][c] := fun c hc => gridCell_eq g y ⟨c, hc⟩
  rw [packedByte, hcell _ (by omega), hcell _ (by omega), hcell _ (by omega), hcell _ (by omega)]

/-! ## What a write stores -/

theorem toNat_ofNat_of_writable {o : Nat} (h : o < 0x24) : (BitVec.ofNat 8 o).toNat = o :=
  Nat.mod_eq_of_lt (by omega)

theorem wr8_ofNat_completes {o : Nat} (h : o < 0x24) (v : Byte) (s : State) :
    CompletesWith (.wr8 (BitVec.ofNat 8 o) v) s (writeByte o v s.block) .done := by
  have ho := toNat_ofNat_of_writable h
  have hw := wr8_completes (off := BitVec.ofNat 8 o) (by rwa [ho]) v s
  rwa [ho] at hw

theorem wr32_ofNat_completes {o : Nat} (ha : o % 4 = 0) (h : o < 0x24) (w : Word) (s : State) :
    CompletesWith (.wr32 (BitVec.ofNat 8 o) w) s (writeWord o w s.block) .done := by
  have ho := toNat_ofNat_of_writable h
  have hw := wr32_completes (off := BitVec.ofNat 8 o) (by rwa [ho]) (by rwa [ho]) w s
  rwa [ho] at hw

theorem writeByte_hdr_add {i : Nat} (h : i < 16) (v : Byte) (b : Block) :
    writeByte (0x10 + i) v b = { b with hdr := b.hdr.set i v, rv := false } := by
  simpa using writeByte_hdr (o := 0x10 + i) (by omega) (by omega) v b

theorem writeByte_imgLen_add {k : Nat} (h : k < 4) (v : Byte) (b : Block) :
    writeByte (0x20 + k) v b = { b with imgLen := setByte b.imgLen k v, rv := false } := by
  simpa using writeByte_imgLen (o := 0x20 + k) (by omega) (by omega) v b

/-- Replacing one byte of a word replaces its 8 bits and no other (R41). -/
theorem setByte_bit (w : Word) (k : Fin 4) (v : Byte) {j : Nat} (hj : j < 32) :
    (setByte w k v).getLsbD j = if j / 8 = k then v.getLsbD (j % 8) else w.getLsbD j := by
  obtain ⟨i, m, hi, hm, rfl⟩ : ∃ i m, i < 4 ∧ m < 8 ∧ j = 8 * i + m := ⟨j / 8, j % 8, by omega, by omega, by omega⟩
  have hbit : ∀ u : Word, u.getLsbD (8 * i + m) = (getByte u i).getLsbD m := by simp [getByte, hm]
  rw [hbit, hbit, show (8 * i + m) / 8 = i by omega, show (8 * i + m) % 8 = m by omega]
  split_ifs with hk
  · rw [hk, getByte_setByte_same]
  · rw [getByte_setByte_other w ⟨i, hi⟩ k v (fun h => hk (congrArg Fin.val h))]

/-- Sixteen bytes with four of them, from byte `4 * k` on, taken from a word (R40). -/
theorem set_four_bytes (r : Bytes16) (k : Fin 4) (w : Word) :
    (((r.set (4 * k) (getByte w 0)).set (4 * k + 1) (getByte w 1)).set (4 * k + 2) (getByte w 2)).set (4 * k + 3)
      (getByte w 3) =
    Vector.ofFn fun i : Fin 16 => if i.val / 4 = k then w.extractLsb' (8 * (i.val % 4)) 8 else r[i] := by
  refine bytes16_ext fun i => ?_
  obtain ⟨q, m, hm, hi⟩ : ∃ q m, m < 4 ∧ i.val = 4 * q + m := ⟨i.val / 4, i.val % 4, by omega, by omega⟩
  simp only [Fin.getElem_fin, Vector.getElem_ofFn, Vector.getElem_set, hi]
  rw [show (4 * q + m) / 4 = q by omega, show (4 * q + m) % 4 = m by omega]
  by_cases hq : q = k
  · subst hq
    interval_cases m <;> simp [getByte]
  · simp (disch := omega) only [if_neg]

theorem writeWord_rec_eq (k : Fin 4) (w : Word) (b : Block) :
    writeWord (4 * k) w b =
      { b with
        record := Vector.ofFn fun i : Fin 16 =>
          if i.val / 4 = k then w.extractLsb' (8 * (i.val % 4)) 8 else b.record[i]
        gv := false } := by
  simp (disch := omega) only [writeWord, writeByte_rec, ← set_four_bytes]

theorem writeWord_hdr_eq (k : Fin 4) (w : Word) (b : Block) :
    writeWord (0x10 + 4 * k) w b =
      { b with
        hdr := Vector.ofFn fun i : Fin 16 =>
          if i.val / 4 = k then w.extractLsb' (8 * (i.val % 4)) 8 else b.hdr[i]
        rv := false } := by
  simp (disch := omega) only [writeWord, Nat.add_assoc, writeByte_hdr_add, ← set_four_bytes]

theorem writeWord_imgLen_eq (w : Word) (b : Block) :
    writeWord 0x20 w b = { b with imgLen := w, rv := false } :=
  congrArg (fun n => { b with imgLen := n, rv := false }) (setByte_all b.imgLen w)

/-! ## The frame of the data writes -/

/-- What a data write of the bytes from `o` to `o + n - 1` leaves as it was (R90). -/
structure WriteFrame (o n : Nat) (b b' : Block) : Prop where
  bytes : ∀ p, p < o ∨ o + n ≤ p → p ≠ 0x28 → byteView b' p = byteView b p
  outputs : b'.grid = b.grid ∧ b'.offset = b.offset ∧ b'.length = b.length ∧ b'.tiles = b.tiles ∧ b'.err = b.err
  gv : 0x10 ≤ o → b'.gv = b.gv
  rv : o < 0x10 ∨ 0x24 ≤ o → b'.rv = b.rv

/-- Every byte of STATUS but the lowest is a view of ERR alone (R28). -/
theorem getByte_statusWord_of_err {b b' : Block} (herr : b'.err = b.err) {k : Nat} (hk : k ≠ 0) :
    getByte (statusWord b') k = getByte (statusWord b) k := by
  by_cases h₁ : k = 1
  · rw [h₁, getByte_statusWord_one, getByte_statusWord_one, herr]
  · rw [getByte_statusWord_upper _ (by omega), getByte_statusWord_upper _ (by omega)]

/-- While the output registers stay, a byte of the window beside the low byte of STATUS changes only with the input byte
it is a view of (R87). -/
theorem byteView_congr_inputs {b b' : Block} {p : Nat} (hp : p ≠ 0x28)
    (hout : b'.grid = b.grid ∧ b'.offset = b.offset ∧ b'.length = b.length ∧ b'.tiles = b.tiles ∧ b'.err = b.err)
    (hrec : ∀ h : p < 0x10, b'.record[p] = b.record[p])
    (hhdr : 0x10 ≤ p → ∀ h : p < 0x20, b'.hdr[p - 0x10] = b.hdr[p - 0x10])
    (himg : 0x20 ≤ p → p < 0x24 → getByte b'.imgLen (p - 0x20) = getByte b.imgLen (p - 0x20)) :
    byteView b' p = byteView b p := by
  obtain ⟨hgrid, hoffset, hlength, htiles, herr⟩ := hout
  unfold byteView
  rw [hgrid, hoffset, hlength, htiles]
  refine dite_congr rfl hrec fun _ => dite_congr rfl (hhdr (by omega)) fun _ =>
    ite_congr rfl (himg (by omega)) fun _ => ite_congr rfl (fun _ => rfl) fun _ => ?_
  exact ite_congr rfl (fun _ => getByte_statusWord_of_err herr (by omega)) fun _ => rfl

section OtherByte

variable {o p : Nat} (hne : p ≠ o) (v : Byte) (b : Block)
include hne

theorem writeByte_record_other (hp : p < 0x10) : (writeByte o v b).record[p] = b.record[p] := by
  obtain ⟨_, h⟩ | ⟨_, h⟩ | ⟨_, h⟩ | ⟨_, h⟩ := writeByte_cases o v b
  · simp [h, Vector.getElem_set_ne, hne.symm]
  all_goals simp [h]

theorem writeByte_hdr_other (hp₁ : 0x10 ≤ p) (hp₂ : p < 0x20) :
    (writeByte o v b).hdr[p - 0x10] = b.hdr[p - 0x10] := by
  obtain ⟨_, h⟩ | ⟨⟨_, _⟩, h⟩ | ⟨_, h⟩ | ⟨_, h⟩ := writeByte_cases o v b
  · simp [h]
  · have : o - 0x10 ≠ p - 0x10 := by omega
    simp [h, Vector.getElem_set_ne, this]
  all_goals simp [h]

theorem writeByte_imgLen_other (hp₁ : 0x20 ≤ p) (hp₂ : p < 0x24) :
    getByte (writeByte o v b).imgLen (p - 0x20) = getByte b.imgLen (p - 0x20) := by
  obtain ⟨_, h⟩ | ⟨_, h⟩ | ⟨⟨_, _⟩, h⟩ | ⟨_, h⟩ := writeByte_cases o v b <;> rw [h]
  exact getByte_setByte_other b.imgLen ⟨p - 0x20, by omega⟩ ⟨o - 0x20, by omega⟩ v (by simp; omega)

/-- A byte write leaves every other byte of the window alone, but for the low byte of STATUS (R90). -/
theorem byteView_writeByte_other (hp : p ≠ 0x28) : byteView (writeByte o v b) p = byteView b p :=
  byteView_congr_inputs hp (writeByte_outputs o v b) (writeByte_record_other hne v b) (writeByte_hdr_other hne v b)
    (writeByte_imgLen_other hne v b)

end OtherByte

theorem writeByte_gv {o : Nat} (h : 0x10 ≤ o) (v : Byte) (b : Block) : (writeByte o v b).gv = b.gv := by
  obtain ⟨_, h'⟩ | ⟨_, h'⟩ | ⟨_, h'⟩ | ⟨_, h'⟩ := writeByte_cases o v b <;> rw [h']
  omega

theorem writeByte_rv {o : Nat} (h : o < 0x10 ∨ 0x24 ≤ o) (v : Byte) (b : Block) : (writeByte o v b).rv = b.rv := by
  obtain ⟨_, h'⟩ | ⟨_, h'⟩ | ⟨_, h'⟩ | ⟨_, h'⟩ := writeByte_cases o v b <;> rw [h'] <;> omega

theorem WriteFrame.refl (o n : Nat) (b : Block) : WriteFrame o n b b :=
  ⟨fun _ _ _ => rfl, ⟨rfl, rfl, rfl, rfl, rfl⟩, fun _ => rfl, fun _ => rfl⟩

/-- One more byte written at the end of the bytes written so far, in the same register if they lie in REC. -/
theorem WriteFrame.snoc {o n : Nat} {b b' : Block} (h : WriteFrame o n b b') (hrec : o < 0x10 → o + n < 0x10) (v : Byte) :
    WriteFrame o (n + 1) b (writeByte (o + n) v b') := by
  obtain ⟨hbytes, ⟨hgrid, hoffset, hlength, htiles, herr⟩, hgv, hrv⟩ := h
  obtain ⟨hgrid', hoffset', hlength', htiles', herr'⟩ := writeByte_outputs (o + n) v b'
  exact {
    bytes := fun p hp hstatus =>
      (byteView_writeByte_other (by omega) v b' hstatus).trans (hbytes p (by omega) hstatus)
    outputs := ⟨hgrid'.trans hgrid, hoffset'.trans hoffset, hlength'.trans hlength, htiles'.trans htiles,
      herr'.trans herr⟩
    gv := fun ho => (writeByte_gv (by omega) v b').trans (hgv ho)
    rv := fun ho => (writeByte_rv (by omega) v b').trans (hrv ho) }

theorem writeFrame_writeByte (o : Nat) (v : Byte) (b : Block) : WriteFrame o 1 b (writeByte o v b) :=
  (WriteFrame.refl o 0 b).snoc id v

theorem writeFrame_writeWord {o : Nat} (ha : o % 4 = 0) (w : Word) (b : Block) : WriteFrame o 4 b (writeWord o w b) :=
  ((((WriteFrame.refl o 0 b).snoc id _).snoc (by omega) _).snoc (by omega) _).snoc (by omega) _

/-- A refused transaction keeps any frame, so the frame of what it does when it passes its checks is enough. -/
theorem writeFrame_of_exec {i : Instr} {s t : State} {o n : Nat}
    (hi : checkOf i = none → WriteFrame o n s.block (effectOf i s.block)) (h : exec i s = .next t) :
    WriteFrame o n s.block t.block := by
  obtain ⟨e, -, rfl⟩ | ⟨hc, rfl⟩ := exec_cases h
  · exact .refl o n s.block
  · exact hi hc

theorem writeFrame_wr8 {s t : State} {off : Offset} {v : Byte} (h : exec (.wr8 off v) s = .next t) :
    WriteFrame off.toNat 1 s.block t.block :=
  writeFrame_of_exec (fun _ => writeFrame_writeByte _ v _) h

theorem writeFrame_wr32 {s t : State} {off : Offset} {w : Word} (hcmd : off ≠ 0x24)
    (h : exec (.wr32 off w) s = .next t) : WriteFrame off.toNat 4 s.block t.block := by
  refine writeFrame_of_exec (fun hc => ?_) h
  rw [effectOf, if_neg hcmd]
  exact writeFrame_writeWord ((busCheck_write_four off).1 hc).1 w _

/-! ## The statements -/

/-- Settles O17: each clause is the reason the checks give at its offsets. -/
theorem accessChecksInOrder : Obligations.AccessChecksInOrder := by
  intro s off v w
  refine ⟨fun t q e hq he hd => ?_, ?_⟩
  · rw [step_txn_of_decode_error hq he hd, busErrorOfDecode_eq_reserved]
    rfl
  simp only [refusedWith_iff_checkOf, checkOf]
  refine ⟨fun h => ?_, fun h₁ h₂ => ?_, fun h => ?_, fun h => ?_, fun ha h => ?_, fun ha h => ?_⟩
  · exact ⟨busCheck_unmapped nofun h, busCheck_unmapped nofun h⟩
  · exact ⟨busCheck_cmd h₁ h₂, busCheck_cmd h₁ h₂⟩
  · exact busCheck_readOnly nofun h
  · exact ⟨(busCheck_eq_misaligned_iff ..).2 ⟨rfl, h⟩, (busCheck_eq_misaligned_iff ..).2 ⟨rfl, h⟩⟩
  · exact ⟨busCheck_unmapped (fun _ => ha) h, busCheck_unmapped (fun _ => ha) h⟩
  · exact busCheck_readOnly (fun _ => ha) h

/-- Settles O19: the rows of R87's table, one register each. -/
theorem byteViewOfRegisters : Obligations.ByteViewOfRegisters := by
  intro b
  refine ⟨byteView_record b, byteView_hdr b, fun k => ?_, ?_, ?_, ?_, ?_, fun k => ?_, fun k => ?_, fun k => ?_,
    fun y h => ?_, byteView_unpacked b⟩
  · rw [byteView_imgLen, getByte_eq_shift]
  · exact (byteView_status b 0).trans (getByte_statusWord_zero b)
  · exact (byteView_status b 1).trans (getByte_statusWord_one b)
  · exact (byteView_status b 2).trans (getByte_statusWord_upper b (le_refl 2))
  · exact (byteView_status b 3).trans (getByte_statusWord_upper b (Nat.le_succ 2))
  · rw [byteView_offset, getByte_eq_shift]
  · rw [byteView_length, getByte_eq_shift]
  · rw [byteView_tiles, getByte_eq_shift]
  · rw [byteView_packed b y h.isLt, packedByte_eq]

/-- Settles O27: the checks refuse every other offset, and a writable one gets its byte write. -/
theorem wr8WritesOneByte : Obligations.Wr8WritesOneByte := by
  intro s v
  refine ⟨fun off => ?_, fun i => ?_, fun i => ?_, fun k => ?_⟩
  · obtain ⟨-, hunmapped, hcmd, hro, -⟩ := accessChecksInOrder s off v 0
    exact ⟨fun h₁ h₂ => (hcmd h₁ h₂).2, fun h => (hunmapped h).2, hro⟩
  · rw [← writeByte_rec i.isLt]
    exact wr8_ofNat_completes (by omega) v s
  · rw [← writeByte_hdr_add i.isLt]
    exact wr8_ofNat_completes (by omega) v s
  · refine ⟨setByte s.block.imgLen k v, ?_, fun j hj => setByte_bit _ k v hj⟩
    rw [← writeByte_imgLen_add k.isLt]
    exact wr8_ofNat_completes (by omega) v s

/-- Settles O28: the word write at each aligned offset of the three input registers. -/
theorem wr32WritesFourBytes : Obligations.Wr32WritesFourBytes := by
  intro s w
  refine ⟨fun k => ?_, fun k => ?_, ?_⟩
  · rw [← writeWord_rec_eq]
    exact wr32_ofNat_completes (by omega) (by omega) w s
  · rw [← writeWord_hdr_eq]
    exact wr32_ofNat_completes (by omega) (by omega) w s
  · rw [← writeWord_imgLen_eq]
    exact wr32_ofNat_completes (o := 0x20) (by omega) (by omega) w s

/-- Settles O29: a writable offset is readable, and its byte view is the byte written. -/
theorem byteReadsBackAfterWrite : Obligations.ByteReadsBackAfterWrite := by
  intro s t off v h ht
  rw [wr8_completes h] at ht
  cases ht
  have hread := rd8_completes ((busCheck_read_one off).2 (.inl h)) (respond .done (mapBlock (writeByte off.toNat v) s))
  rwa [respond_block, mapBlock_block, byteView_writeByte_same h] at hread

/-- Settles O30: WR8 and a data WR32 keep the same frame, around one byte and around four. -/
theorem dataWriteFrame : Obligations.DataWriteFrame := by
  intro s t off v w
  refine ⟨fun h => ?_, fun hcmd h => ?_⟩
  · obtain ⟨hbytes, ⟨hgrid, hoffset, hlength, htiles, herr⟩, hgv, hrv⟩ := writeFrame_wr8 h
    exact ⟨fun o ho => hbytes o (by omega), hgrid, hoffset, hlength, htiles, herr, hgv, hrv⟩
  · obtain ⟨hbytes, ⟨hgrid, hoffset, hlength, htiles, herr⟩, hgv, hrv⟩ := writeFrame_wr32 hcmd h
    exact ⟨hbytes, hgrid, hoffset, hlength, htiles, herr, hgv, hrv⟩

/-- Settles O20: the byte read passes its checks where the window has a byte view. -/
theorem rd8AnswersByteView : Obligations.Rd8AnswersByteView := by
  intro s off
  obtain ⟨-, hunmapped, hcmd, -⟩ := accessChecksInOrder s off 0 0
  exact ⟨fun h => rd8_completes ((busCheck_read_one off).2 h) s, fun h₁ h₂ => (hcmd h₁ h₂).1, fun h => (hunmapped h).1⟩

/-- Settles O21: CMD reads as 0, and elsewhere the word view is the four byte views. -/
theorem rd32AnswersLittleEndianWord : Obligations.Rd32AnswersLittleEndianWord := by
  intro s off
  obtain ⟨-, -, -, -, hmisaligned, hunmapped, -⟩ := accessChecksInOrder s off 0 0
  refine ⟨rd32_completes (by decide) s, fun ha hr => ?_, fun h => (hmisaligned h).1, fun ha h => (hunmapped ha h).1⟩
  have h := rd32_completes ((busCheck_read_four off).2 ⟨ha, by omega⟩) s
  rwa [wordView, if_neg (by omega)] at h

end Sys2Proof.Machine
end

section
/-! Completion, the error code, and instances side by side: every transaction has a next state with one more answer, only
commands and resets change ERR, and the steps of two instances commute. -/

namespace Sys2Proof.Machine

open Sys2Proof.Statements

/-! ## ERR -/

/-- The data writes and the reads keep ERR; each command writes it (R28, R101). -/
theorem RegisterChange.served_of_err_ne {s : State} {b : Block} (h : RegisterChange s b) (hne : b.err ≠ s.block.err) :
    TakesReset s ∨ ∃ w, Serves s (.wr32 0x24 w) := by
  cases h with
  | reset hs => exact .inl hs
  | decode hs => exact .inr ⟨_, hs⟩
  | locate hs => exact .inr ⟨_, hs⟩
  | illegal w _ _ hs => exact .inr ⟨w, hs⟩
  | unchanged | recordWrite | hdrWrite | imgLenWrite => exact absurd rfl hne

theorem block_of_exec_wr32_cmd {w : Word} {s t : State} (h : exec (.wr32 0x24 w) s = .next t) :
    t.block = runCommandWord w s.block :=
  block_of_exec (i := .wr32 0x24 w) ((busCheck_write_four _).2 (by decide)) h

/-! ## Steps of instances -/

/-- An instance steps when it exists and its own machine steps, and that machine alone is replaced (R106). -/
theorem stepInstance_eq_next_iff {k : Nat} {ps qs : Platform} :
    stepInstance k ps = .next qs ↔
      ∃ p m, ps[k]? = some p ∧ step p.machine = .next m ∧ qs = ps.set k { p with machine := m } := by
  unfold stepInstance
  cases hp : ps[k]? with
  | none => simp
  | some p => cases hm : step p.machine <;> simp [hm, eq_comm]

/-! ## The statements -/

/-- Settles O16: the next state of a transaction, refused or not, keeps the port and has one more answer. -/
theorem everyTransactionCompletes : Obligations.EveryTransactionCompletes := by
  intro i s
  obtain ⟨t, h⟩ := exec_has_next i s
  exact ⟨t, h, exec_answers_once h⟩

/-- Settles O48: of all changes only a reset's and a command's touch ERR, and the word written to CMD says what ERR
becomes. -/
theorem errWrittenOnlyByCommands : Obligations.ErrWrittenOnlyByCommands := by
  refine ⟨fun s t h => (registerChange_of_step h).served_of_err_ne, fun s t h => ?_, fun s t w hd hl h => ?_,
    fun s t h => ?_⟩
  · rw [block_of_exec_wr32_cmd h]
    exact runDecode_err s.block
  · rw [block_of_exec_wr32_cmd h, runCommandWord_illegal hd hl]
    exact illegalCommand_err s.block
  · have hrun : t.block = runLocate s.block := block_of_exec_wr32_cmd h
    cases hr : locateRegion s.block.hdr s.block.imgLen with
    | ok o l n => rw [hrun, runLocate_ok hr]
    | err c => rw [hrun, runLocate_err hr]

/-- Settles O52: each step replaces one entry of the platform and reads no other, so entries of different numbers can be
replaced in either order. -/
theorem instancesShareNoState : Obligations.InstancesShareNoState := by
  intro ps qs j k hjk h
  obtain ⟨p, m, hp, hm, rfl⟩ := stepInstance_eq_next_iff.1 h
  refine ⟨List.length_set, List.getElem?_set_ne hjk, fun rs hrs => ?_⟩
  obtain ⟨q, n, hq, hn, rfl⟩ := stepInstance_eq_next_iff.1 hrs
  rw [List.getElem?_set_ne hjk] at hq
  have hp' : (ps.set k { q with machine := n })[j]? = some p := by rw [List.getElem?_set_ne hjk.symm, hp]
  exact ⟨_, stepInstance_eq_next_iff.2 ⟨q, n, hq, hn, rfl⟩,
    stepInstance_eq_next_iff.2 ⟨p, m, hp', hm, List.set_comm _ _ hjk⟩⟩

end Sys2Proof.Machine
end

section
/-! The reset state as a start state: its validity bits tell the truth, and it serves the first transaction at once. -/

namespace Sys2Proof.Machine

/-- A transaction issued while nothing waits is served by the next step, unless ERR is reserved (R7, R46). -/
theorem step_issue_txn_has_next {s : State} (hq : s.inbox = []) (he : ErrLegal s.block) (w : Txn) :
    ∃ t, step (issue (.txn w) s) = .next t := by
  have hfirst : (issue (.txn w) s).inbox = .txn w :: [] := by rw [issue_inbox, hq, List.nil_append]
  exact step_txn_has_next hfirst he

/-- Settles O2: both validity bits are clear at reset, nothing waits at the port, and ERR is legal. -/
theorem resetStateServesAndIsValid : Obligations.ResetStateServesAndIsValid := by
  obtain ⟨herr, -, -⟩ := resultRegisters_reset
  exact ⟨validityBits_reset, step_issue_txn_has_next rfl herr⟩

end Sys2Proof.Machine
end
